-- ==== Sys2Proof/Word.lean ====
section
/-! DEFINITION. The two word types of the block: bytes of bus memory, and 32-bit words (addresses, register data,
descriptor words; `ADDR_WIDTH` and `REG_WIDTH` of 00_scope R6). -/

namespace Sys2Proof

/-- One byte of bus memory. -/
abbrev Byte := BitVec 8

/-- A 32-bit word: a bus address, a register data word or a descriptor word (00_scope R6). -/
abbrev Word := BitVec 32

end Sys2Proof
end

