-- ==== Sys2Proof/Config.lean ====
section
/-! DEFINITION. What an implementation of the block fixes (00_scope R6): the parameters the spec leaves OPEN, as one record of
plain data that a state carries and no operation changes (log 4), and the two numbers the model fixes. -/

namespace Sys2Proof

/-- The registers of the register surface (10_state R38); the index is the channel. -/
inductive RegName where
  | enable | disable | status | done | intflag | inten | force | linkload | reqdisable
  | reqsel (i : Nat) | config (i : Nat) | loop (i : Nat)
  | ctrl (i : Nat) | srcaddr (i : Nat) | dstaddr (i : Nat) | link (i : Nat)
  deriving DecidableEq, Repr

/-- `IRQ_WIRING`: which interrupt outputs leave the block (00_scope R6, 60_exceptions R289). -/
inductive IrqWiring where
  | wideOnly | perChannelOnly | both
  deriving DecidableEq, Repr

/-- One entry of the table `SHOULD_PULL` (41_pull_scheduler R150): a (source, signal) pair and whether it is pulling. -/
structure PullEntry where
  source : BitVec 6
  signal : BitVec 4
  pulls : Bool
  deriving DecidableEq, Repr

/-- `NUM_CHANNELS` is not here: it is the length of the state's channel array (10_state R20). -/
structure Params where
  /-- `SHOULD_PULL`; a pair without an entry is `Unknown`. -/
  shouldPullTable : List PullEntry
  /-- `PULL_PERIOD_TICKS`; no rule reads it (41_pull_scheduler R153). -/
  pullPeriodTicks : Nat
  /-- `HAS_ALIAS_BANKS` (44_register_ops R260). -/
  hasAliasBanks : Bool
  /-- `IRQ_WIRING`. -/
  irqWiring : IrqWiring
  /-- `REG_OFFSET`: the byte offset of every register that is mapped (30_encoding R112). -/
  regOffset : List (RegName × Nat)
  /-- Lowest bit of `sourceSelector` in the REQSEL word (30_encoding R114; log 5). -/
  reqselSourceLo : Nat
  /-- Lowest bit of `signalSelector` in the REQSEL word (30_encoding R114; log 5). -/
  reqselSignalLo : Nat
  deriving DecidableEq, Repr

/-- `PULL_TICK_RATE`, ticks per second of virtual time (00_scope R6). No rule reads it. -/
def Config.pullTickRate : Nat := 1000000

/-- The rate and the period of the pull timer, in ticks per second and ticks (41_pull_scheduler R153). -/
def Config.pullTiming (p : Params) : Nat × Nat := (Config.pullTickRate, p.pullPeriodTicks)

/-- How many iterations one activation may make before the model calls it a hang (70_reset R322, decision D30; log 9).
DESIGN CHOICE, safe. -/
def Config.loopFuel : Nat := 18446744073709551616

/-- The register offsets of the machine after reset, for `n` channels. DESIGN CHOICE (log 4). -/
def Config.defaultOffsets (n : Nat) : List (RegName × Nat) :=
  [(.enable, 0x00), (.disable, 0x04), (.status, 0x08), (.done, 0x0C), (.intflag, 0x10), (.inten, 0x14),
   (.force, 0x18), (.linkload, 0x1C), (.reqdisable, 0x20)] ++
  (List.range n).flatMap fun i =>
    [(.reqsel i, 0x100 + 0x20 * i), (.config i, 0x104 + 0x20 * i), (.loop i, 0x108 + 0x20 * i),
     (.ctrl i, 0x10C + 0x20 * i), (.srcaddr i, 0x110 + 0x20 * i), (.dstaddr i, 0x114 + 0x20 * i),
     (.link i, 0x118 + 0x20 * i)]

/-- `NUM_CHANNELS` of the machine after reset: the test vectors' 2. DESIGN CHOICE (log 4). -/
def Config.defaultChannels : Nat := 2

/-- The OPEN parameters of the machine after reset: those the test vectors of the spec name. DESIGN CHOICE (log 4). -/
def Config.defaultParams : Params where
  shouldPullTable :=
    [⟨0, 0, false⟩, ⟨1, 0, false⟩, ⟨2, 0, false⟩, ⟨3, 1, false⟩, ⟨5, 2, true⟩, ⟨7, 3, false⟩]
  pullPeriodTicks := 1
  hasAliasBanks := true
  irqWiring := .both
  regOffset := Config.defaultOffsets Config.defaultChannels
  reqselSourceLo := 4
  reqselSignalLo := 0

end Sys2Proof
end

