-- ==== Sys2Proof/Syntax.lean ====
section
/-! DEFINITION. The data the operations of the block carry (descriptor, signal identifier) and the operations themselves: one
constructor of `Instr` per row of the spec's opcode table. -/

namespace Sys2Proof

/-- `structureKind` (10_state R22, 30_encoding R97). -/
inductive StructureKind where
  | transfer | synchronize | write | invalid
  deriving DecidableEq, Repr

/-- `blockSize`, sixteen codes (30_encoding R98). -/
inductive BlockSize where
  | unit1 | unit2 | unit3 | unit4 | unit6 | unit8 | reservedBlock6 | unit16 | reservedBlock8
  | unit32 | unit64 | unit128 | unit256 | unit512 | unit1024 | all
  deriving DecidableEq, Repr

/-- `requestMode` (30_encoding R99). -/
inductive RequestMode where
  | block | all
  deriving DecidableEq, Repr

/-- `sourceIncrement` and `destinationIncrement` (30_encoding R100). -/
inductive Increment where
  | x1 | x2 | x4 | none
  deriving DecidableEq, Repr

/-- `unitSize` (30_encoding R101). -/
inductive UnitSize where
  | byte | halfWord | word | reservedSize
  deriving DecidableEq, Repr

/-- The addressing modes and `linkMode` (30_encoding R102, R103). -/
inductive AddressingMode where
  | absolute | relative
  deriving DecidableEq, Repr

/-- `TransferDescriptor` (10_state R22), its fields in the document's order. -/
structure TransferDescriptor where
  structureKind : StructureKind
  autoRequest : Bool
  /-- the remaining count minus one (10_state R23) -/
  transferCount : BitVec 11
  byteSwap : Bool
  blockSize : BlockSize
  doneInterruptEnable : Bool
  requestMode : RequestMode
  decrementLoopCount : Bool
  ignoreSingleRequests : Bool
  sourceIncrement : Increment
  destinationIncrement : Increment
  unitSize : UnitSize
  sourceAddressingMode : AddressingMode
  destinationAddressingMode : AddressingMode
  sourceAddress : Word
  destinationAddress : Word
  linkMode : AddressingMode
  link : Bool
  /-- a word address (10_state R24) -/
  linkAddress : BitVec 30
  deriving DecidableEq, Repr

/-- The descriptor of a reset channel: every field 0 (10_state R44). -/
def TransferDescriptor.zero : TransferDescriptor where
  structureKind := .transfer
  autoRequest := false
  transferCount := 0
  byteSwap := false
  blockSize := .unit1
  doneInterruptEnable := false
  requestMode := .block
  decrementLoopCount := false
  ignoreSingleRequests := false
  sourceIncrement := .x1
  destinationIncrement := .x1
  unitSize := .byte
  sourceAddressingMode := .absolute
  destinationAddressingMode := .absolute
  sourceAddress := 0
  destinationAddress := 0
  linkMode := .absolute
  link := false
  linkAddress := 0

/-- A signal identifier, the triple the crossbar keys its set by (10_state R36). -/
structure SignalId where
  source : BitVec 6
  signal : BitVec 4
  single : Bool
  deriving DecidableEq, Repr

/-- Why a packet of the operation stream is no operation; the decoder's answer, raised as `Refusal.badOperation` (log 2). -/
inductive DecodeError where
  /-- the stream ends inside the packet -/
  | truncated
  /-- class 3 of the packet's first word, which no operation uses -/
  | reservedClass
  /-- a selector no row has -/
  | unknownOperation
  /-- an operand byte that must be 0 is not -/
  | reservedBits
  /-- a channel byte of 32 or more (decision D7) -/
  | channelOutOfRange
  /-- a level, source or signal byte above its field's width -/
  | operandOutOfRange
  deriving DecidableEq, Repr

/-- The operations of the block: one constructor per row of the spec's opcode table, in the table's order. -/
inductive Instr where
  /-- `RESET` (70_reset R310) -/
  | reset
  /-- `SIG id, level` (43_crossbar R210); `id` is an identifier number, its ignored bits included -/
  | sig (id : Word) (level : Bool)
  /-- `TICK i` (41_pull_scheduler R154) -/
  | tick (i : Nat)
  /-- `WR ENABLE, v` (44_register_ops R232) -/
  | wrEnable (v : Word)
  /-- `RD ENABLE` (44_register_ops R233) -/
  | rdEnable
  /-- `WR DISABLE, v` (44_register_ops R234) -/
  | wrDisable (v : Word)
  /-- `RD DISABLE` (44_register_ops R234) -/
  | rdDisable
  /-- `WR STATUS, v` (44_register_ops R235) -/
  | wrStatus (v : Word)
  /-- `RD STATUS` (44_register_ops R235) -/
  | rdStatus
  /-- `WR DONE, v` (44_register_ops R236) -/
  | wrDone (v : Word)
  /-- `RD DONE` (44_register_ops R236) -/
  | rdDone
  /-- `WR INTFLAG, v` (44_register_ops R237) -/
  | wrIntflag (v : Word)
  /-- `RD INTFLAG` (44_register_ops R237) -/
  | rdIntflag
  /-- `WR INTEN, v` (44_register_ops R238) -/
  | wrInten (v : Word)
  /-- `RD INTEN` (44_register_ops R238) -/
  | rdInten
  /-- `WR FORCE, v` (44_register_ops R240) -/
  | wrForce (v : Word)
  /-- `RD FORCE` (44_register_ops R240) -/
  | rdForce
  /-- `WR LINKLOAD, v` (44_register_ops R242) -/
  | wrLinkload (v : Word)
  /-- `RD LINKLOAD` (44_register_ops R242) -/
  | rdLinkload
  /-- `WR REQDISABLE, v` (44_register_ops R244) -/
  | wrReqdisable (v : Word)
  /-- `RD REQDISABLE` (44_register_ops R244) -/
  | rdReqdisable
  /-- `WR REQSEL[i], source, signal` (44_register_ops R246) -/
  | wrReqsel (i : Nat) (source : BitVec 6) (signal : BitVec 4)
  /-- `RD REQSEL[i]` (44_register_ops R246) -/
  | rdReqsel (i : Nat)
  /-- `WR CONFIG[i], v` (44_register_ops R248) -/
  | wrConfig (i : Nat) (v : Word)
  /-- `RD CONFIG[i]` (44_register_ops R248) -/
  | rdConfig (i : Nat)
  /-- `WR LOOP[i], v` (44_register_ops R249) -/
  | wrLoop (i : Nat) (v : Word)
  /-- `RD LOOP[i]` (44_register_ops R249) -/
  | rdLoop (i : Nat)
  /-- `WR CTRL[i], v` (44_register_ops R251) -/
  | wrCtrl (i : Nat) (v : Word)
  /-- `RD CTRL[i]` (44_register_ops R250) -/
  | rdCtrl (i : Nat)
  /-- `WR SRCADDR[i], v` (44_register_ops R254) -/
  | wrSrcaddr (i : Nat) (v : Word)
  /-- `RD SRCADDR[i]` (44_register_ops R254) -/
  | rdSrcaddr (i : Nat)
  /-- `WR DSTADDR[i], v` (44_register_ops R255) -/
  | wrDstaddr (i : Nat) (v : Word)
  /-- `RD DSTADDR[i]` (44_register_ops R255) -/
  | rdDstaddr (i : Nat)
  /-- `WR LINK[i], v` (44_register_ops R256) -/
  | wrLink (i : Nat) (v : Word)
  /-- `RD LINK[i]` (44_register_ops R257) -/
  | rdLink (i : Nat)
  /-- `WR reg, V (plain bank)`: bank 0, offset `r` (44_register_ops R230, 30_encoding R112) -/
  | wrPlain (r : BitVec 12) (v : Word)
  /-- `WR.SET reg, V`: bank 1, offset `r` (44_register_ops R262) -/
  | wrSet (r : BitVec 12) (v : Word)
  /-- `WR.CLR reg, V`: bank 2, offset `r` (44_register_ops R263) -/
  | wrClr (r : BitVec 12) (v : Word)
  /-- `WR.TGL reg, V`: bank 3, offset `r` (44_register_ops R264) -/
  | wrTgl (r : BitVec 12) (v : Word)
  /-- `RD reg (any bank)` (44_register_ops R265) -/
  | rdAny (bank : BitVec 2) (r : BitVec 12)
  /-- `DESC.W0` (30_encoding R92; log 14) -/
  | descW0 (w : Word)
  /-- `DESC.W1` (30_encoding R93; log 14) -/
  | descW1 (w : Word)
  /-- `DESC.W2` (30_encoding R94; log 14) -/
  | descW2 (w : Word)
  /-- `DESC.W3` (30_encoding R95; log 14) -/
  | descW3 (w : Word)
  /-- `DESC.W4..W7` (30_encoding R96; log 14) -/
  | descW4to7 (w : Word)
  /-- `SIGID` (30_encoding R110; log 14) -/
  | sigId (id : Word)
  /-- `decode(b)` (40_codec R130; log 13) -/
  | decodeDesc (b : List Byte)
  /-- `encode(d)` (40_codec R131; log 13) -/
  | encodeDesc (d : TransferDescriptor)
  /-- `shouldPull(i)` (41_pull_scheduler R151; log 13) -/
  | shouldPull (i : Nat)
  /-- `attemptStart(i)` (42_channel_engine R171; log 13) -/
  | attemptStart (i : Nat)
  /-- `executeActivation(i)` (42_channel_engine R175; log 13) -/
  | executeActivation (i : Nat)
  /-- `minorTransfer(i)` (42_channel_engine R180; log 13) -/
  | minorTransfer (i : Nat)
  /-- `setDone(i)` (42_channel_engine R186; log 13) -/
  | setDone (i : Nat)
  /-- `chainLoad(i)` (42_channel_engine R190; log 13) -/
  | chainLoad (i : Nat)
  /-- `linkLoadOp(i)` (42_channel_engine R191; log 13) -/
  | linkLoadOp (i : Nat)
  /-- `matches(i, k)` (43_crossbar R211; log 13) -/
  | matchesId (i : Nat) (k : SignalId)
  /-- `signalIsOn(i)` (43_crossbar R215; log 13) -/
  | signalIsOn (i : Nat)
  /-- `updateInterrupts()` (60_exceptions R288; log 13) -/
  | updateInterrupts
  deriving DecidableEq, Repr

end Sys2Proof
end

