-- ==== Sys2Proof/Machine/Codec.lean ====
section
/-! DEFINITION. Byte order, the enumeration codes, the descriptor codec and the signal identifier (30_encoding, 40_codec). Every
bit position of the model stands here. -/

namespace Sys2Proof.Machine

/-- Four bytes, the first least significant (20_memory R61). -/
def wordOfBytes (b0 b1 b2 b3 : Byte) : Word := b3 ++ b2 ++ b1 ++ b0

/-- The four bytes of a word, least significant first (20_memory R61). -/
def bytesOfWord (w : Word) : List Byte :=
  [w.extractLsb' 0 8, w.extractLsb' 8 8, w.extractLsb' 16 8, w.extractLsb' 24 8]

/-! ### Enumeration codes (30_encoding R97 to R103) -/

def kindTag (c : BitVec 2) : StructureKind :=
  match c.toNat with
  | 0 => .transfer
  | 1 => .synchronize
  | 2 => .write
  | _ => .invalid

def kindCode : StructureKind → BitVec 2
  | .transfer => 0
  | .synchronize => 1
  | .write => 2
  | .invalid => 3

def blockTag (c : BitVec 4) : BlockSize :=
  match c.toNat with
  | 0 => .unit1
  | 1 => .unit2
  | 2 => .unit3
  | 3 => .unit4
  | 4 => .unit6
  | 5 => .unit8
  | 6 => .reservedBlock6
  | 7 => .unit16
  | 8 => .reservedBlock8
  | 9 => .unit32
  | 10 => .unit64
  | 11 => .unit128
  | 12 => .unit256
  | 13 => .unit512
  | 14 => .unit1024
  | _ => .all

def blockCode : BlockSize → BitVec 4
  | .unit1 => 0
  | .unit2 => 1
  | .unit3 => 2
  | .unit4 => 3
  | .unit6 => 4
  | .unit8 => 5
  | .reservedBlock6 => 6
  | .unit16 => 7
  | .reservedBlock8 => 8
  | .unit32 => 9
  | .unit64 => 10
  | .unit128 => 11
  | .unit256 => 12
  | .unit512 => 13
  | .unit1024 => 14
  | .all => 15

def modeTag (b : Bool) : RequestMode := if b then .all else .block

def modeCode : RequestMode → Bool
  | .block => false
  | .all => true

def incTag (c : BitVec 2) : Increment :=
  match c.toNat with
  | 0 => .x1
  | 1 => .x2
  | 2 => .x4
  | _ => .none

def incCode : Increment → BitVec 2
  | .x1 => 0
  | .x2 => 1
  | .x4 => 2
  | .none => 3

def sizeTag (c : BitVec 2) : UnitSize :=
  match c.toNat with
  | 0 => .byte
  | 1 => .halfWord
  | 2 => .word
  | _ => .reservedSize

def sizeCode : UnitSize → BitVec 2
  | .byte => 0
  | .halfWord => 1
  | .word => 2
  | .reservedSize => 3

def addrTag (b : Bool) : AddressingMode := if b then .relative else .absolute

def addrCode : AddressingMode → Bool
  | .absolute => false
  | .relative => true

/-! ### The descriptor words -/

/-- `d` with the fields of the control word `w` (30_encoding R92); bit 2 is ignored (R96). -/
def withControlWord (w : Word) (d : TransferDescriptor) : TransferDescriptor :=
  { d with
    structureKind := kindTag (w.extractLsb' 0 2)
    autoRequest := w.getLsbD 3
    transferCount := w.extractLsb' 4 11
    byteSwap := w.getLsbD 15
    blockSize := blockTag (w.extractLsb' 16 4)
    doneInterruptEnable := w.getLsbD 20
    requestMode := modeTag (w.getLsbD 21)
    decrementLoopCount := w.getLsbD 22
    ignoreSingleRequests := w.getLsbD 23
    sourceIncrement := incTag (w.extractLsb' 24 2)
    unitSize := sizeTag (w.extractLsb' 26 2)
    destinationIncrement := incTag (w.extractLsb' 28 2)
    sourceAddressingMode := addrTag (w.getLsbD 30)
    destinationAddressingMode := addrTag (w.getLsbD 31) }

/-- `d` with the writable fields of a `CTRL` write (44_register_ops R251): `structureKind` and the two addressing modes are
read-only (R253). -/
def withWrittenControl (w : Word) (d : TransferDescriptor) : TransferDescriptor :=
  { withControlWord w d with
    structureKind := d.structureKind
    sourceAddressingMode := d.sourceAddressingMode
    destinationAddressingMode := d.destinationAddressingMode }

/-- `d` with the fields of the link word `w` (30_encoding R95). -/
def withLinkWord (w : Word) (d : TransferDescriptor) : TransferDescriptor :=
  { d with linkMode := addrTag (w.getLsbD 0), link := w.getLsbD 1, linkAddress := w.extractLsb' 2 30 }

/-- The descriptor of the words `W0` to `W3` (40_codec R130). -/
def descOfWords (w0 w1 w2 w3 : Word) : TransferDescriptor :=
  withLinkWord w3
    { withControlWord w0 TransferDescriptor.zero with sourceAddress := w1, destinationAddress := w2 }

/-- `W0` of `encode(d)` (30_encoding R92), bit 31 on the left; bit 2 is 0. -/
def controlWord (d : TransferDescriptor) : Word :=
  BitVec.ofBool (addrCode d.destinationAddressingMode) ++ BitVec.ofBool (addrCode d.sourceAddressingMode) ++
  incCode d.destinationIncrement ++ sizeCode d.unitSize ++ incCode d.sourceIncrement ++
  BitVec.ofBool d.ignoreSingleRequests ++ BitVec.ofBool d.decrementLoopCount ++
  BitVec.ofBool (modeCode d.requestMode) ++ BitVec.ofBool d.doneInterruptEnable ++ blockCode d.blockSize ++
  BitVec.ofBool d.byteSwap ++ d.transferCount ++ BitVec.ofBool d.autoRequest ++ 0#1 ++ kindCode d.structureKind

/-- `W3` of `encode(d)` (30_encoding R95). -/
def linkWord (d : TransferDescriptor) : Word :=
  d.linkAddress ++ BitVec.ofBool d.link ++ BitVec.ofBool (addrCode d.linkMode)

/-- Word `j` of a byte array, least significant byte first; a byte that is not there counts as 0. -/
def wordAt (b : List Byte) (j : Nat) : Word :=
  wordOfBytes (b.getD (4 * j) 0) (b.getD (4 * j + 1) 0) (b.getD (4 * j + 2) 0) (b.getD (4 * j + 3) 0)

/-- `decode(b)` (40_codec R130). Bytes 16 to 31 are ignored (30_encoding R96). -/
def decodeDescriptor (b : List Byte) : TransferDescriptor :=
  descOfWords (wordAt b 0) (wordAt b 1) (wordAt b 2) (wordAt b 3)

/-- `encode(d)` (40_codec R131): 32 bytes, the last 16 of them 0. -/
def encodeDescriptor (d : TransferDescriptor) : List Byte :=
  bytesOfWord (controlWord d) ++ bytesOfWord d.sourceAddress ++ bytesOfWord d.destinationAddress ++
  bytesOfWord (linkWord d) ++ List.replicate 16 0

/-! ### The signal identifier (30_encoding R110, R111) -/

/-- The triple of an identifier number (43_crossbar R212): bits 10, 11 and those above 12 are dropped. -/
def sigIdOfWord (id : Word) : SignalId where
  source := id.extractLsb' 4 6
  signal := id.extractLsb' 0 4
  single := id.getLsbD 12

/-- `SIGID(source, signal, single)` (30_encoding R121), a 13-bit number. -/
def wordOfSigId (k : SignalId) : Word :=
  0#19 ++ BitVec.ofBool k.single ++ 0#2 ++ k.source ++ k.signal

end Sys2Proof.Machine
end

