-- ==== Sys2Proof/WellFormed.lean ====
section
/-! DEFINITION. What makes an operation and a parameter record well formed. -/

namespace Sys2Proof

/-- A channel index a 32-channel controller can have (decision D7: `NUM_CHANNELS <= 32`). -/
abbrev channelOk (i : Nat) : Prop := i < 32

/-- `decode` takes exactly 32 bytes (30_encoding R91). -/
abbrev bytesOk (b : List Byte) : Prop := b.length = 32

/-- The checks an operation's operands pass. Whether the channel exists in a given controller is the state's, not the
syntax's. -/
def Instr.wellFormed : Instr → Bool
  | .tick i | .rdReqsel i | .rdConfig i | .rdLoop i | .rdCtrl i | .rdSrcaddr i | .rdDstaddr i | .rdLink i
  | .shouldPull i | .attemptStart i | .executeActivation i | .minorTransfer i | .setDone i | .chainLoad i
  | .linkLoadOp i | .signalIsOn i => decide (channelOk i)
  | .wrReqsel i _ _ | .wrConfig i _ | .wrLoop i _ | .wrCtrl i _ | .wrSrcaddr i _ | .wrDstaddr i _ | .wrLink i _
  | .matchesId i _ => decide (channelOk i)
  | .decodeDesc b => decide (bytesOk b)
  | .reset | .sig _ _ | .wrEnable _ | .rdEnable | .wrDisable _ | .rdDisable | .wrStatus _ | .rdStatus
  | .wrDone _ | .rdDone | .wrIntflag _ | .rdIntflag | .wrInten _ | .rdInten | .wrForce _ | .rdForce
  | .wrLinkload _ | .rdLinkload | .wrReqdisable _ | .rdReqdisable | .wrPlain _ _ | .wrSet _ _ | .wrClr _ _
  | .wrTgl _ _ | .rdAny _ _ | .descW0 _ | .descW1 _ | .descW2 _ | .descW3 _ | .descW4to7 _ | .sigId _
  | .encodeDesc _ | .updateInterrupts => true

/-- The channel a register belongs to, if it is a per-channel register (10_state R38). -/
def RegName.channel? : RegName → Option Nat
  | .reqsel i | .config i | .loop i | .ctrl i | .srcaddr i | .dstaddr i | .link i => some i
  | .enable | .disable | .status | .done | .intflag | .inten | .force | .linkload | .reqdisable => none

/-- What 00_scope R6 asks of the parameters of a controller with `n` channels: `1 <= NUM_CHANNELS <= 32`, a period of at
least 1, every offset below `0x1000` when the alias banks exist, no two registers at one offset, only registers of channels
that exist, and two disjoint REQSEL fields inside the word. -/
abbrev Params.wf (p : Params) (n : Nat) : Prop :=
  1 ≤ n ∧ n ≤ 32 ∧ 1 ≤ p.pullPeriodTicks ∧
  (p.hasAliasBanks = true → ∀ e ∈ p.regOffset, e.2 < 0x1000) ∧
  p.regOffset.Pairwise (fun a b => a.2 ≠ b.2) ∧
  (∀ e ∈ p.regOffset, ∀ i ∈ e.1.channel?, i < n) ∧
  p.reqselSourceLo + 6 ≤ 32 ∧ p.reqselSignalLo + 4 ≤ 32 ∧
  (p.reqselSourceLo + 6 ≤ p.reqselSignalLo ∨ p.reqselSignalLo + 4 ≤ p.reqselSourceLo)

end Sys2Proof
end

