-- ==== Sys2Proof/Decode.lean ====
section
/-! DEFINITION. The operation stream: how an operation arriving on a port of the block is written as bytes, its decoder (total,
rejecting by name) and its encoder. The spec gives operations no encoding (30_encoding R120, R122); this one is the model's,
DESIGN CHOICE (log 2), around the spec's own formats REGADDR (R112), SIGID (R110) and the descriptor words (R92 to R95).

A packet begins with a 16-bit word, low byte first. Its bits 15:14 are the class:
class 0 is a register write at the address of bits 13:0 (REGADDR: bank in 13:12, offset in 11:0), then the data word;
class 1 is a register read at that address;
class 2 is a named operation: selector in bits 13:8, the channel (or SIG's level) in bits 7:0, then its operands;
class 3 is reserved. -/

namespace Sys2Proof

open Sys2Proof.Machine (wordOfBytes bytesOfWord sigIdOfWord wordOfSigId decodeDescriptor encodeDescriptor)

/-- What the decoder answers: the operation and the rest of the stream, or why there is none. -/
abbrev Decoded := Except DecodeError (Instr × List Byte)

/-! ### Operands -/

/-- A 32-bit operand, least significant byte first. -/
def takeWord (r : List Byte) (f : Word → Instr) : Decoded :=
  match r with
  | b0 :: b1 :: b2 :: b3 :: rest => .ok (f (wordOfBytes b0 b1 b2 b3), rest)
  | _ => .error .truncated

/-- An operation without operands: its low byte is 0. -/
def takeBare (low : Byte) (r : List Byte) (i : Instr) : Decoded :=
  if low = 0 then .ok (i, r) else .error .reservedBits

/-- An operation with one word operand: its low byte is 0. -/
def takeLoneWord (low : Byte) (r : List Byte) (f : Word → Instr) : Decoded :=
  if low = 0 then takeWord r f else .error .reservedBits

/-- An operation of one channel. -/
def takeChannel (low : Byte) (r : List Byte) (f : Nat → Instr) : Decoded :=
  if low.toNat < 32 then .ok (f low.toNat, r) else .error .channelOutOfRange

/-- An operation of one channel and a word. -/
def takeChannelWord (low : Byte) (r : List Byte) (f : Nat → Word → Instr) : Decoded :=
  if low.toNat < 32 then takeWord r (f low.toNat) else .error .channelOutOfRange

/-- `SIG`: the level in the low byte, then the identifier number. -/
def takeSig (low : Byte) (r : List Byte) : Decoded :=
  if low = 0 then takeWord r fun id => .sig id false
  else if low = 1 then takeWord r fun id => .sig id true
  else .error .operandOutOfRange

/-- `WR REQSEL[i]`: a source byte and a signal byte. -/
def takeReqsel (low : Byte) (r : List Byte) : Decoded :=
  match r with
  | src :: sgn :: rest =>
    if 32 ≤ low.toNat then .error .channelOutOfRange
    else if 64 ≤ src.toNat ∨ 16 ≤ sgn.toNat then .error .operandOutOfRange
    else .ok (.wrReqsel low.toNat (src.extractLsb' 0 6) (sgn.extractLsb' 0 4), rest)
  | _ => .error .truncated

/-- `matches(i, k)`: the identifier as a SIGID number. -/
def takeMatches (low : Byte) (r : List Byte) : Decoded :=
  takeChannelWord low r fun i id => .matchesId i (sigIdOfWord id)

/-- `decode(b)`: 32 bytes. -/
def takeBytes (low : Byte) (r : List Byte) : Decoded :=
  if low = 0 then
    if 32 ≤ r.length then .ok (.decodeDesc (r.take 32), r.drop 32) else .error .truncated
  else .error .reservedBits

/-- `encode(d)`: the descriptor in its own 32-byte format. -/
def takeDescriptor (low : Byte) (r : List Byte) : Decoded :=
  if low = 0 then
    if 32 ≤ r.length then .ok (.encodeDesc (decodeDescriptor (r.take 32)), r.drop 32) else .error .truncated
  else .error .reservedBits

/-! ### The decoder -/

/-- Class 2: the operation the selector names. -/
def decodeNamed (selector : Nat) (low : Byte) (r : List Byte) : Decoded :=
  match selector with
  | 0 => takeBare low r .reset
  | 1 => takeSig low r
  | 2 => takeChannel low r .tick
  | 3 => takeLoneWord low r .wrEnable
  | 4 => takeBare low r .rdEnable
  | 5 => takeLoneWord low r .wrDisable
  | 6 => takeBare low r .rdDisable
  | 7 => takeLoneWord low r .wrStatus
  | 8 => takeBare low r .rdStatus
  | 9 => takeLoneWord low r .wrDone
  | 10 => takeBare low r .rdDone
  | 11 => takeLoneWord low r .wrIntflag
  | 12 => takeBare low r .rdIntflag
  | 13 => takeLoneWord low r .wrInten
  | 14 => takeBare low r .rdInten
  | 15 => takeLoneWord low r .wrForce
  | 16 => takeBare low r .rdForce
  | 17 => takeLoneWord low r .wrLinkload
  | 18 => takeBare low r .rdLinkload
  | 19 => takeLoneWord low r .wrReqdisable
  | 20 => takeBare low r .rdReqdisable
  | 21 => takeReqsel low r
  | 22 => takeChannel low r .rdReqsel
  | 23 => takeChannelWord low r .wrConfig
  | 24 => takeChannel low r .rdConfig
  | 25 => takeChannelWord low r .wrLoop
  | 26 => takeChannel low r .rdLoop
  | 27 => takeChannelWord low r .wrCtrl
  | 28 => takeChannel low r .rdCtrl
  | 29 => takeChannelWord low r .wrSrcaddr
  | 30 => takeChannel low r .rdSrcaddr
  | 31 => takeChannelWord low r .wrDstaddr
  | 32 => takeChannel low r .rdDstaddr
  | 33 => takeChannelWord low r .wrLink
  | 34 => takeChannel low r .rdLink
  | 35 => takeLoneWord low r .descW0
  | 36 => takeLoneWord low r .descW1
  | 37 => takeLoneWord low r .descW2
  | 38 => takeLoneWord low r .descW3
  | 39 => takeLoneWord low r .descW4to7
  | 40 => takeLoneWord low r .sigId
  | 41 => takeBytes low r
  | 42 => takeDescriptor low r
  | 43 => takeChannel low r .shouldPull
  | 44 => takeChannel low r .attemptStart
  | 45 => takeChannel low r .executeActivation
  | 46 => takeChannel low r .minorTransfer
  | 47 => takeChannel low r .setDone
  | 48 => takeChannel low r .chainLoad
  | 49 => takeChannel low r .linkLoadOp
  | 50 => takeMatches low r
  | 51 => takeChannel low r .signalIsOn
  | 52 => takeBare low r .updateInterrupts
  | _ => .error .unknownOperation

/-- The write of a data word at a register address (30_encoding R112): the bank chooses the row. -/
def writeAt (bank : BitVec 2) (offset : BitVec 12) (v : Word) : Instr :=
  match bank.toNat with
  | 0 => .wrPlain offset v
  | 1 => .wrSet offset v
  | 2 => .wrClr offset v
  | _ => .wrTgl offset v

/-- The operation at the head of the stream. Total: every byte list gives an operation or a named error. -/
def decode (bytes : List Byte) : Decoded :=
  match bytes with
  | lo :: hi :: r =>
    let offset : BitVec 12 := hi.extractLsb' 0 4 ++ lo
    match (hi.extractLsb' 6 2).toNat with
    | 0 => takeWord r (writeAt (hi.extractLsb' 4 2) offset)
    | 1 => .ok (.rdAny (hi.extractLsb' 4 2) offset, r)
    | 2 => decodeNamed (hi.extractLsb' 0 6).toNat lo r
    | _ => .error .reservedClass
  | _ => .error .truncated

/-! ### The encoder -/

/-- The first word of an address-level access: class, bank, offset. -/
def addressHeader (cls bank : BitVec 2) (offset : BitVec 12) : List Byte :=
  [offset.extractLsb' 0 8, cls ++ bank ++ offset.extractLsb' 8 4]

/-- The first word of a named operation: class 2, selector, low byte. -/
def namedHeader (selector : BitVec 6) (low : Byte) : List Byte :=
  [low, 2#2 ++ selector]

/-- The channel byte. -/
def channelByte (i : Nat) : Byte := BitVec.ofNat 8 i

/-- The packet of an operation. -/
def encode : Instr → List Byte
  | .reset => namedHeader 0 0
  | .sig id level => namedHeader 1 (if level then 1 else 0) ++ bytesOfWord id
  | .tick i => namedHeader 2 (channelByte i)
  | .wrEnable w => namedHeader 3 0 ++ bytesOfWord w
  | .rdEnable => namedHeader 4 0
  | .wrDisable w => namedHeader 5 0 ++ bytesOfWord w
  | .rdDisable => namedHeader 6 0
  | .wrStatus w => namedHeader 7 0 ++ bytesOfWord w
  | .rdStatus => namedHeader 8 0
  | .wrDone w => namedHeader 9 0 ++ bytesOfWord w
  | .rdDone => namedHeader 10 0
  | .wrIntflag w => namedHeader 11 0 ++ bytesOfWord w
  | .rdIntflag => namedHeader 12 0
  | .wrInten w => namedHeader 13 0 ++ bytesOfWord w
  | .rdInten => namedHeader 14 0
  | .wrForce w => namedHeader 15 0 ++ bytesOfWord w
  | .rdForce => namedHeader 16 0
  | .wrLinkload w => namedHeader 17 0 ++ bytesOfWord w
  | .rdLinkload => namedHeader 18 0
  | .wrReqdisable w => namedHeader 19 0 ++ bytesOfWord w
  | .rdReqdisable => namedHeader 20 0
  | .wrReqsel i source signal => namedHeader 21 (channelByte i) ++ [0#2 ++ source, 0#4 ++ signal]
  | .rdReqsel i => namedHeader 22 (channelByte i)
  | .wrConfig i v => namedHeader 23 (channelByte i) ++ bytesOfWord v
  | .rdConfig i => namedHeader 24 (channelByte i)
  | .wrLoop i v => namedHeader 25 (channelByte i) ++ bytesOfWord v
  | .rdLoop i => namedHeader 26 (channelByte i)
  | .wrCtrl i v => namedHeader 27 (channelByte i) ++ bytesOfWord v
  | .rdCtrl i => namedHeader 28 (channelByte i)
  | .wrSrcaddr i v => namedHeader 29 (channelByte i) ++ bytesOfWord v
  | .rdSrcaddr i => namedHeader 30 (channelByte i)
  | .wrDstaddr i v => namedHeader 31 (channelByte i) ++ bytesOfWord v
  | .rdDstaddr i => namedHeader 32 (channelByte i)
  | .wrLink i v => namedHeader 33 (channelByte i) ++ bytesOfWord v
  | .rdLink i => namedHeader 34 (channelByte i)
  | .wrPlain r v => addressHeader 0 0 r ++ bytesOfWord v
  | .wrSet r v => addressHeader 0 1 r ++ bytesOfWord v
  | .wrClr r v => addressHeader 0 2 r ++ bytesOfWord v
  | .wrTgl r v => addressHeader 0 3 r ++ bytesOfWord v
  | .rdAny bank r => addressHeader 1 bank r
  | .descW0 w => namedHeader 35 0 ++ bytesOfWord w
  | .descW1 w => namedHeader 36 0 ++ bytesOfWord w
  | .descW2 w => namedHeader 37 0 ++ bytesOfWord w
  | .descW3 w => namedHeader 38 0 ++ bytesOfWord w
  | .descW4to7 w => namedHeader 39 0 ++ bytesOfWord w
  | .sigId w => namedHeader 40 0 ++ bytesOfWord w
  | .decodeDesc b => namedHeader 41 0 ++ b
  | .encodeDesc d => namedHeader 42 0 ++ encodeDescriptor d
  | .shouldPull i => namedHeader 43 (channelByte i)
  | .attemptStart i => namedHeader 44 (channelByte i)
  | .executeActivation i => namedHeader 45 (channelByte i)
  | .minorTransfer i => namedHeader 46 (channelByte i)
  | .setDone i => namedHeader 47 (channelByte i)
  | .chainLoad i => namedHeader 48 (channelByte i)
  | .linkLoadOp i => namedHeader 49 (channelByte i)
  | .matchesId i k => namedHeader 50 (channelByte i) ++ bytesOfWord (wordOfSigId k)
  | .signalIsOn i => namedHeader 51 (channelByte i)
  | .updateInterrupts => namedHeader 52 0

/-! ### One word of the opcode table as a packet (log 3) -/

/-- The packet that `w`, a word of a table row of `nbits` bits, stands for, its operand words 0. A word of at most 16 bits is
a REGADDR word, the first word of a packet. A 32-bit word is a descriptor word: the one all-zero pattern is the row
`DESC.W4..W7`, every other word the control word `DESC.W0`. DESIGN CHOICE (log 3). -/
def tablePacket (nbits w : Nat) : List Byte :=
  let word : Word := BitVec.ofNat 32 w
  if nbits ≤ 16 then
    let bytes := (bytesOfWord word).take 2 ++ List.replicate 32 0
    match decode bytes with
    | .ok (_, rest) => bytes.take (bytes.length - rest.length)
    | .error _ => bytes
  else if w = 0 then encode (.descW4to7 word)
  else encode (.descW0 word)

/-- The operation the decoder reads from that packet. -/
def decodeTableWord (nbits w : Nat) : Option Instr :=
  match decode (tablePacket nbits w) with
  | .ok (i, _) => some i
  | .error _ => none

end Sys2Proof
end

