-- ==== Sys2Proof/Machine/State.lean ====
section
/-! DEFINITION. The state of the machine as plain data, what stops a step, and the state after reset. The block's own state is
the channel array and the crossbar's set (10_state R20); the other fields are the memory, the logs and the environment's
inputs that INVENTORY.md lists. -/

namespace Sys2Proof.Machine

/-- Bus memory: the bytes that differ from `Memory.unlisted`, by rising address (see `Memory.wf`). -/
abbrev Memory := List Host.Cell

/-- What an unlisted byte reads as. DESIGN CHOICE, unsafe (log 6): the test vectors' "memory not mentioned holds zero". -/
def Memory.unlisted : Byte := 0

/-- The canonical form: addresses strictly rising and below `2^32`, no entry equal to the unlisted byte. -/
abbrev Memory.wf (m : Memory) : Prop :=
  m.Pairwise (fun a b => a.1 < b.1) ∧ ∀ c ∈ m, c.1 < 2 ^ 32 ∧ c.2 ≠ Memory.unlisted

/-- A channel (10_state R20 to R35). -/
structure Channel where
  /-- R33 -/
  index : Nat
  /-- the live descriptor, R21 -/
  desc : TransferDescriptor
  /-- R28 -/
  descLoadAddr : Word
  enabled : Bool
  done : Bool
  requestDisable : Bool
  /-- the latched completion flag, R30 -/
  doneInterrupt : Bool
  /-- the channel's enable of the output, not the descriptor's latch gate, R30 -/
  doneInterruptEnable : Bool
  /-- the re-entrancy guard, R31 -/
  inProgress : Bool
  /-- whether the pull timer is scheduled, R32 -/
  pullArmed : Bool
  sourceSelector : BitVec 6
  signalSelector : BitVec 4
  config : Word
  loop : Word
  deriving DecidableEq, Repr

/-- Channel `i` after a reset (10_state R44). -/
def Channel.zero (i : Nat) : Channel where
  index := i
  desc := TransferDescriptor.zero
  descLoadAddr := 0
  enabled := false
  done := false
  requestDisable := false
  doneInterrupt := false
  doneInterruptEnable := false
  inProgress := false
  pullArmed := false
  sourceSelector := 0
  signalSelector := 0
  config := 0
  loop := 0

/-- The diagnostics (60_exceptions R281). -/
inductive Diagnostic where
  | unsupportedKind (i : Nat) (kind : StructureKind)
  | unknownPullPair (i : Nat) (source : BitVec 6) (signal : BitVec 4)
  | forceOnDisabled (i : Nat)
  | unsupportedUnitSize (i : Nat)
  | unsupportedBlockSize (i : Nat) (code : BlockSize)
  deriving DecidableEq, Repr

/-- One call the block makes on its BUS port (20_memory R64, R66; log 17). `finalRead` and `finalWrite` are the pair the
engine returns and the core does not use (R68). -/
inductive BusCall where
  | memRead (addr : Word) (length : Nat)
  | copy (src dst : Word) (size readWidth writeWidth srcStep dstStep : Nat) (finalRead finalWrite : Word)
  deriving DecidableEq, Repr

/-- The four banks of the register space (20_memory R76, 44_register_ops R260). -/
inductive Bank where
  | plain | set | clear | toggle
  deriving DecidableEq, Repr

/-- An operation the environment performs inside a copy (20_memory R77): a signal notification or a register access. A reset
and a timer tick cannot be nested (70_reset R311, 41_pull_scheduler R156). -/
inductive EnvOp where
  | sig (id : Word) (level : Bool)
  | rd (bank : Bank) (r : RegName)
  | wr (bank : Bank) (r : RegName) (v : Word)
  | wrReqsel (i : Nat) (source : BitVec 6) (signal : BitVec 4)
  deriving DecidableEq, Repr

/-- A nested operation and when it happens: after that many units of the copy have been moved, or at the copy's end if it
moves fewer (log 8). -/
structure CopyEvent where
  afterUnits : Nat
  op : EnvOp
  deriving DecidableEq, Repr

/-- What the last operation that returns a value returned (log 12). -/
inductive Result where
  | none
  | word (w : Word)
  | fields (source : BitVec 6) (signal : BitVec 4)
  | flag (b : Bool)
  | desc (d : TransferDescriptor)
  | bytes (b : List Byte)
  | sigId (k : SignalId)
  /-- the wired interrupt outputs: the word of `irq_ch`, and `irq_wide` -/
  | irq (channels : Option Word) (wide : Option Bool)
  deriving DecidableEq, Repr

structure State where
  /-- the OPEN parameters, constants of the machine (00_scope R6, 10_state R41; log 4) -/
  params : Params
  /-- the channel array; `NUM_CHANNELS` is its length (10_state R20) -/
  ch : List Channel
  /-- the crossbar's set of asserted identifiers, ascending by `SignalId.key` (10_state R36) -/
  asserted : List SignalId
  /-- system bus memory (10_state R42 (a)). Only copies change it: that a run of steps holds no store by software is the
  model's choice, DESIGN CHOICE (log 21) -/
  mem : Memory
  /-- the diagnostic log, oldest first (10_state R40) -/
  diagLog : List Diagnostic
  /-- the calls made on the BUS port, oldest first; the model's own (log 17) -/
  busLog : List BusCall
  /-- read data of the REG port and values of procedures; the model's own (log 12) -/
  result : Result
  /-- what the environment does inside each coming `Copy`; the model's own (log 8) -/
  copyEnv : List (List CopyEvent)
  /-- the operations still to come, encoded; the model's own (log 1) -/
  pending : List Byte
  deriving DecidableEq, Repr

/-- Why the machine stops with no next state. -/
inductive Fault where
  /-- an activation that never ends (70_reset R322): raised by the activation loop when its fuel is used up. Safe: the
  hardware does not return either, and a run the model cuts short has no next state (log 9). -/
  | hang
  deriving DecidableEq, Repr

/-- Why an operation has no meaning. -/
inductive Refusal where
  /-- an instruction without a meaning, by mnemonic; raised by a refused arm of `exec` only. Safe. -/
  | notModelled (mnemonic : String)
  /-- the bytes at the head of the operation stream are no operation; raised by `step`. Safe (log 2). -/
  | badOperation (e : DecodeError)
  /-- an operand the operation cannot take (a byte array that is not 32 bytes); raised by `decode(b)`; no decoded
  operation reaches it. Safe. -/
  | illFormed
  /-- a channel index of `NUM_CHANNELS` or more; raised by every operation that names a channel. Safe (log 16). -/
  | noSuchChannel
  /-- an offset `REG_OFFSET` maps to no register (30_encoding R112); raised by the address-level accesses. Safe (log 16). -/
  | unmappedOffset
  /-- an alias bank of a controller without alias banks, named by a nested operation. Safe (log 16). -/
  | noAliasBanks
  /-- the expiry of a timer that is not armed, which cannot happen (41_pull_scheduler R154); raised by `TICK`. Safe
  (log 15). -/
  | timerNotArmed
  deriving DecidableEq, Repr

/-- The answer of an operation. -/
abbrev Out := Host.Outcome State Fault Refusal

/-- The state at construction of a controller with parameters `p` and `n` channels (10_state R44, 70_reset R311). -/
def State.initial (p : Params) (n : Nat) : State where
  params := p
  ch := (List.range n).map Channel.zero
  asserted := []
  mem := []
  diagLog := []
  busLog := []
  result := .none
  copyEnv := []
  pending := []

/-- The machine right after reset (10_state R44), with the parameters of the test vectors (log 4). -/
def State.reset : State := State.initial Config.defaultParams Config.defaultChannels

end Sys2Proof.Machine
end

