-- ==== Sys2Proof/Machine/Ops.lean ====
section
/-! DEFINITION. The named operations over memory, the channel array, the crossbar's set and the logs. The block raises no exception
and takes no trap (60_exceptions R280, R291), so there is no exception entry and no return here: what it has instead is the
diagnostic, `State.diag`, which records and goes on. -/

namespace Sys2Proof.Machine

/-! ### Sequencing (00_scope R7: an operation runs to completion) -/

/-- `o`, then `f` on the state it leaves; a fault or a refusal ends the operation. -/
def andThen (o : Out) (f : State → Out) : Out :=
  match o with
  | .next s => f s
  | .fault r => .fault r
  | .refused r => .refused r

/-- `act` for each channel of the list, in its order, each to completion before the next (60_exceptions R290). -/
def forEach (act : Nat → State → Out) : List Nat → State → Out
  | [], s => .next s
  | i :: rest, s => andThen (act i s) (forEach act rest)

/-! ### Memory -/

/-- The byte at address `a`. -/
def Memory.read : Memory → Nat → Byte
  | [], _ => Memory.unlisted
  | (x, c) :: rest, a => if x = a then c else Memory.read rest a

/-- Store `b` at address `a`, keeping the canonical form. -/
def Memory.write : Memory → Nat → Byte → Memory
  | [], a, b => if b = Memory.unlisted then [] else [(a, b)]
  | (x, c) :: rest, a, b =>
    if a < x then (if b = Memory.unlisted then (x, c) :: rest else (a, b) :: (x, c) :: rest)
    else if a = x then (if b = Memory.unlisted then rest else (a, b) :: rest)
    else (x, c) :: Memory.write rest a b

/-- The byte at bus address `a`. -/
def State.readByte (s : State) (a : Word) : Byte := Memory.read s.mem a.toNat

/-- Store one byte at bus address `a`. -/
def State.writeByte (s : State) (a : Word) (b : Byte) : State := { s with mem := Memory.write s.mem a.toNat b }

/-- The `n` bytes at `a, a+1, …`, addresses modulo `2^32` (20_memory R64). -/
def State.readBytes (s : State) (a : Word) : Nat → List Byte
  | 0 => []
  | n + 1 => s.readByte a :: s.readBytes (a + 1) n

/-- Store the bytes at `a, a+1, …`, addresses modulo `2^32`. -/
def State.writeBytes (s : State) (a : Word) : List Byte → State
  | [] => s
  | b :: rest => (s.writeByte a b).writeBytes (a + 1) rest

/-! ### Channels -/

/-- `NUM_CHANNELS` (00_scope R6). -/
def State.numChannels (s : State) : Nat := s.ch.length

/-- `ch[i]`; a channel that does not exist reads as a reset one. -/
def State.chan (s : State) (i : Nat) : Channel := s.ch.getD i (Channel.zero i)

/-- Replace `ch[i]` by `f ch[i]`. -/
def State.updateChan (s : State) (i : Nat) (f : Channel → Channel) : State := { s with ch := s.ch.modify i f }

/-- Replace the live descriptor of channel `i` (10_state R21). -/
def State.updateDesc (s : State) (i : Nat) (f : TransferDescriptor → TransferDescriptor) : State :=
  s.updateChan i fun c => { c with desc := f c.desc }

/-- Replace every channel, `f` told its position. -/
def State.mapChan (s : State) (f : Nat → Channel → Channel) : State := { s with ch := s.ch.mapIdx f }

/-- The indices `0, 1, …, NUM_CHANNELS-1`. -/
def State.channels (s : State) : List Nat := List.range s.numChannels

/-- `o` when channel `i` exists (log 16). -/
def withChannel (s : State) (i : Nat) (o : Out) : Out :=
  if i < s.numChannels then o else .refused .noSuchChannel

/-! ### The crossbar's set (10_state R36) -/

/-- The number `SIGID` of a triple, the order the set is kept in. -/
def sigKey (k : SignalId) : Nat := (wordOfSigId k).toNat

/-- `set ∪ {k}`. -/
def insertId (k : SignalId) : List SignalId → List SignalId
  | [] => [k]
  | x :: rest =>
    if sigKey k < sigKey x then k :: x :: rest
    else if k = x then x :: rest
    else x :: insertId k rest

/-- `set \ {k}`. -/
def eraseId (k : SignalId) (set : List SignalId) : List SignalId := set.filter (fun x => decide (x ≠ k))

/-- The set's canonical form: strictly ascending. -/
abbrev idsWf (set : List SignalId) : Prop := set.Pairwise (fun a b => sigKey a < sigKey b)

/-! ### Outputs -/

/-- Append a diagnostic and go on (00_scope, primitive `diag`; 60_exceptions R281). -/
def State.diag (s : State) (g : Diagnostic) : State := { s with diagLog := s.diagLog ++ [g] }

/-- Record a call on the BUS port (log 17). -/
def State.busCall (s : State) (c : BusCall) : State := { s with busLog := s.busLog ++ [c] }

/-- Return a value (log 12). -/
def State.answer (s : State) (r : Result) : State := { s with result := r }

end Sys2Proof.Machine
end

