-- ==== Sys2Proof/Machine/Operands.lean ====
section
/-! DEFINITION. Operand assembly: counts, block units, steps and link addresses (30_encoding R98 to R108), and what a minor
transfer asks of the byte-copy engine (42_channel_engine R180). -/

namespace Sys2Proof.Machine

/-- The remaining count `rem` (30_encoding R105, 10_state R23). -/
def remaining (d : TransferDescriptor) : Nat := d.transferCount.toNat + 1

/-- `unitBytes` (30_encoding R101); the reserved code has none. -/
def unitBytes : UnitSize → Option Nat
  | .byte => some 1
  | .halfWord => some 2
  | .word => some 4
  | .reservedSize => none

/-- `blockUnits(tag, rem)` (30_encoding R98, R108); the reserved codes have none. -/
def blockUnits (b : BlockSize) (rem : Nat) : Option Nat :=
  match b with
  | .unit1 => some 1
  | .unit2 => some 2
  | .unit3 => some 3
  | .unit4 => some 4
  | .unit6 => some 6
  | .unit8 => some 8
  | .reservedBlock6 => none
  | .unit16 => some 16
  | .reservedBlock8 => none
  | .unit32 => some 32
  | .unit64 => some 64
  | .unit128 => some 128
  | .unit256 => some 256
  | .unit512 => some 512
  | .unit1024 => some 1024
  | .all => some rem

/-- `step(inc, usz)` (30_encoding R107). -/
def addressStep (inc : Increment) (usz : Nat) : Nat :=
  match inc with
  | .x1 => usz * 1
  | .x2 => usz * 2
  | .x4 => usz * 4
  | .none => 0

/-- `n`, the units of one minor transfer (30_encoding R108). `blockSize` is not read in `All` mode (R104). -/
def transferUnits (d : TransferDescriptor) : Option Nat :=
  match d.requestMode with
  | .all => some (remaining d)
  | .block => (blockUnits d.blockSize (remaining d)).map (min (remaining d))

/-- The operands of a minor transfer's `Copy` beside the two addresses (42_channel_engine R180). -/
structure TransferPlan where
  /-- `n` -/
  units : Nat
  /-- `usz`, the read and the write unit width -/
  width : Nat
  /-- `sInc` -/
  srcStep : Nat
  /-- `dInc` -/
  dstStep : Nat
  deriving DecidableEq, Repr

/-- What a minor transfer of channel `i` does with descriptor `d`: a plan, or the diagnostic of an unsupported configuration
(42_channel_engine R180, R181, R182), in the order the spec tests them. -/
def transferPlan (i : Nat) (d : TransferDescriptor) : Except Diagnostic TransferPlan :=
  if d.structureKind = .transfer then
    match unitBytes d.unitSize with
    | none => .error (.unsupportedUnitSize i)
    | some usz =>
      match transferUnits d with
      | none => .error (.unsupportedBlockSize i d.blockSize)
      | some n => .ok ⟨n, usz, addressStep d.sourceIncrement usz, addressStep d.destinationIncrement usz⟩
  else .error (.unsupportedKind i d.structureKind)

/-- `base + step * units`, modulo `2^32` (decision D9). -/
def advance (base : Word) (step units : Nat) : Word := base + BitVec.ofNat 32 (step * units)

/-- The address a chain-load reads (30_encoding R106, 42_channel_engine R190). -/
def linkTarget (c : Channel) : Word :=
  let addr : Word := c.desc.linkAddress ++ 0#2
  match c.desc.linkMode with
  | .absolute => addr
  | .relative => addr + c.descLoadAddr

/-- The REQSEL word of the two selector fields (30_encoding R114; log 5). -/
def reqselWord (p : Params) (source : BitVec 6) (signal : BitVec 4) : Word :=
  (source.setWidth 32 <<< p.reqselSourceLo) ||| (signal.setWidth 32 <<< p.reqselSignalLo)

/-- The source field of a REQSEL word (log 5). -/
def reqselSource (p : Params) (v : Word) : BitVec 6 := v.extractLsb' p.reqselSourceLo 6

/-- The signal field of a REQSEL word (log 5). -/
def reqselSignal (p : Params) (v : Word) : BitVec 4 := v.extractLsb' p.reqselSignalLo 4

/-- `SHOULD_PULL(source, signal)`: `some true` is Pull, `some false` Edge, `none` Unknown (41_pull_scheduler R150). -/
def pullClass (p : Params) (source : BitVec 6) (signal : BitVec 4) : Option Bool :=
  (p.shouldPullTable.find? fun e => e.source = source ∧ e.signal = signal).map PullEntry.pulls

/-- The bank and register a 14-bit register address selects (30_encoding R112). Without alias banks the whole address is the
offset in the plain bank. -/
def resolve (p : Params) (bank : BitVec 2) (offset : BitVec 12) : Option (Bank × RegName) :=
  if p.hasAliasBanks then
    (p.regOffset.find? fun e => e.2 = offset.toNat).map fun e =>
      (match bank.toNat with
       | 0 => Bank.plain
       | 1 => Bank.set
       | 2 => Bank.clear
       | _ => Bank.toggle, e.1)
  else (p.regOffset.find? fun e => e.2 = (bank ++ offset).toNat).map fun e => (Bank.plain, e.1)

/-- `new = old OP V` (44_register_ops R260); a plain write ignores the old value. -/
def combine (bank : Bank) (old v : Word) : Word :=
  match bank with
  | .plain => v
  | .set => old ||| v
  | .clear => old &&& ~~~v
  | .toggle => old ^^^ v

end Sys2Proof.Machine
end

