-- ==== Sys2Proof/Machine/Flags.lean ====
section
/-! DEFINITION. Flags and what is computed from them: the bank words (30_encoding R113), the interrupt outputs (60_exceptions R286
to R289), and the named states of a channel (10_state R37). -/

namespace Sys2Proof.Machine

/-- The number whose bit `i` is the `i`-th Boolean. -/
def packBits : List Bool → Nat
  | [] => 0
  | b :: rest => b.toNat + 2 * packBits rest

/-- The word whose bit `i` is `f ch[i]`, bits at and above `NUM_CHANNELS` 0 (30_encoding R113). -/
def State.bankWord (s : State) (f : Channel → Bool) : Word := BitVec.ofNat 32 (packBits (s.ch.map f))

/-- The level output of a channel (60_exceptions R286). -/
def irqOf (c : Channel) : Bool := c.doneInterrupt && c.doneInterruptEnable

/-- `irq_ch[i]` (60_exceptions R286). -/
def State.irqCh (s : State) (i : Nat) : Bool := irqOf (s.chan i)

/-- `irq_wide` (60_exceptions R287). -/
def State.irqWide (s : State) : Bool := s.ch.any irqOf

/-- The outputs that leave the block (60_exceptions R289). -/
def State.wiredIrq (s : State) : Result :=
  match s.params.irqWiring with
  | .wideOnly => .irq none (some s.irqWide)
  | .perChannelOnly => .irq (some (s.bankWord irqOf)) none
  | .both => .irq (some (s.bankWord irqOf)) (some s.irqWide)

/-- The four named states (10_state R37). -/
inductive ChannelPhase where
  | idle | armedPulling | active | done
  deriving DecidableEq, Repr

/-- The derived classification of a channel (10_state R37, decision D27); no operation branches on it. -/
def phaseOf (c : Channel) : ChannelPhase :=
  if c.inProgress then .active
  else if c.done then .done
  else if c.pullArmed then .armedPulling
  else .idle

end Sys2Proof.Machine
end

