-- ==== Sys2Proof/Machine/Crossbar.lean ====
section
/-! DEFINITION. The signal crossbar's two tests (43_crossbar) and the pull classification (41_pull_scheduler R151). -/

namespace Sys2Proof.Machine

/-- `matches(i, k)` (43_crossbar R211), on the channel. -/
def matchesOf (c : Channel) (k : SignalId) : Bool :=
  decide (c.sourceSelector = k.source) && decide (c.signalSelector = k.signal) &&
  (!k.single || !c.desc.ignoreSingleRequests)

/-- `signalIsOn(i)` (43_crossbar R215). -/
def State.signalOn (s : State) (i : Nat) : Bool :=
  let c := s.chan i
  s.asserted.contains ⟨c.sourceSelector, c.signalSelector, false⟩ ||
  (s.asserted.contains ⟨c.sourceSelector, c.signalSelector, true⟩ && !c.desc.ignoreSingleRequests)

/-- `SHOULD_PULL` of channel `i`'s bound pair (41_pull_scheduler R151). -/
def State.boundClass (s : State) (i : Nat) : Option Bool :=
  pullClass s.params (s.chan i).sourceSelector (s.chan i).signalSelector

/-- The value of `shouldPull(i)` (41_pull_scheduler R151): an unknown pair does not pull. -/
def State.pulls (s : State) (i : Nat) : Bool := (s.boundClass i).getD false

/-- The state `shouldPull(i)` leaves: a diagnostic for an unknown pair (41_pull_scheduler R151, decision D37). -/
def State.reportPull (s : State) (i : Nat) : State :=
  match s.boundClass i with
  | some _ => s
  | none => s.diag (.unknownPullPair i (s.chan i).sourceSelector (s.chan i).signalSelector)

end Sys2Proof.Machine
end

