-- ==== Sys2Proof/Machine/Engine.lean ====
section
/-! DEFINITION. The channel state machine (42_channel_engine) and the pull tick (41_pull_scheduler R154). Every procedure that can
reach a `Copy` takes `nest`, how an operation nested inside the copy runs (20_memory R77); `Registers.lean` ties the knot. -/

namespace Sys2Proof.Machine

/-- How a nested operation runs. -/
abbrev Nest := EnvOp → State → Out

/-! ### The byte-copy engine (20_memory R66, R67) -/

/-- The nested operations, in order. -/
def runEvents (nest : Nest) : List CopyEvent → State → Out
  | [], s => .next s
  | e :: rest, s => andThen (nest e.op s) (runEvents nest rest)

/-- The events of a copy of `n` units due after `k` of them; those set for later than its end are due at its end (log 8). -/
def eventsDue (events : List CopyEvent) (n k : Nat) : List CopyEvent :=
  events.filter fun e => decide (min e.afterUnits n = k)

/-- Move one unit: read its `width` bytes, then write them in the same order (20_memory R67). -/
def State.moveUnit (s : State) (src dst : Word) (width : Nat) : State :=
  s.writeBytes dst (s.readBytes src width)

/-- The last `m` units of a copy of `n`, unit by unit in ascending order, with the nested operations due between them. -/
def copyUnits (nest : Nest) (events : List CopyEvent) (src dst : Word) (n : Nat) (p : TransferPlan) : Nat → State → Out
  | 0, s => runEvents nest (eventsDue events n n) s
  | m + 1, s =>
    andThen (runEvents nest (eventsDue events n (n - (m + 1))) s) fun s1 =>
      copyUnits nest events src dst n p m
        (s1.moveUnit (advance src p.srcStep (n - (m + 1))) (advance dst p.dstStep (n - (m + 1))) p.width)

/-- The call `Copy` of plan `p` as it appears on the BUS port (20_memory R66, R67). -/
def copyCall (src dst : Word) (p : TransferPlan) : BusCall :=
  .copy src dst (p.units * p.width) p.width p.width p.srcStep p.dstStep
    (advance src p.srcStep p.units) (advance dst p.dstStep p.units)

/-- A `Copy` call begins: it is recorded on the BUS port, and it takes the next entry of the environment's script (log 8). -/
def State.beginCopy (s : State) (c : BusCall) : State :=
  { s with busLog := s.busLog ++ [c], copyEnv := s.copyEnv.tail }

/-- `Copy(src, dst, n * usz, usz, usz, sInc, dInc)`; past the script's end the environment does nothing (log 8). -/
def copy (nest : Nest) (src dst : Word) (p : TransferPlan) (s : State) : Out :=
  copyUnits nest (s.copyEnv.headD []) src dst p.units p p.units (s.beginCopy (copyCall src dst p))

/-! ### Completion -/

/-- `setDone(i)` (42_channel_engine R186), on the channel. -/
def latchDone (c : Channel) : Channel :=
  if c.done then c
  else { c with done := true, doneInterrupt := c.doneInterrupt || c.desc.doneInterruptEnable }

/-- `setDone(i)` (42_channel_engine R186). -/
def State.complete (s : State) (i : Nat) : State := s.updateChan i latchDone

/-- What a minor transfer does after its copy (42_channel_engine R183, R184): `d` is the snapshot taken before the copy
(decision D25). The interrupt outputs are functions of the state, so `updateInterrupts()` is no update here (60_exceptions
R288, decision D20; log 11). -/
def afterCopy (i : Nat) (d : TransferDescriptor) (p : TransferPlan) (s : State) : State :=
  match d.requestMode with
  | .all => s.complete i
  | .block =>
    let left := remaining d - p.units
    (if left = 0 then s.complete i else s).updateDesc i fun e =>
      { e with
        transferCount := if left = 0 then 0 else BitVec.ofNat 11 (left - 1)
        sourceAddress := advance d.sourceAddress p.srcStep p.units
        destinationAddress := advance d.destinationAddress p.dstStep p.units }

/-- `minorTransfer(i)` (42_channel_engine R180, R181, R182). -/
def minorTransfer (nest : Nest) (i : Nat) (s : State) : Out :=
  let d := (s.chan i).desc
  match transferPlan i d with
  | .error g => .next (s.diag g)
  | .ok p =>
    andThen (copy nest d.sourceAddress d.destinationAddress p s) fun s1 => .next (afterCopy i d p s1)

/-! ### Chain-load -/

/-- `chainLoad(i)` (42_channel_engine R190). -/
def State.chainLoad (s : State) (i : Nat) : State :=
  let addr := linkTarget (s.chan i)
  (s.busCall (.memRead addr 32)).updateChan i fun c =>
    { c with desc := decodeDescriptor (s.readBytes addr 32), descLoadAddr := addr }

/-- Step 3b of an activation: whether the transfer just completed the descriptor and it links (42_channel_engine R176). -/
def State.mustChain (s : State) (i : Nat) : Bool := (s.chan i).done && (s.chan i).desc.link

/-- Step 3b: load the next descriptor and clear `done` (42_channel_engine R175). -/
def State.chainOn (s : State) (i : Nat) : State :=
  (s.chainLoad i).updateChan i fun c => { c with done := false }

/-! ### Activation -/

/-- Step 3b as a whole (42_channel_engine R175). -/
def State.chained (s : State) (i : Nat) : State := if s.mustChain i then s.chainOn i else s

/-- Step 4 of an activation, the loop condition (42_channel_engine R177). -/
def State.goesOn (s : State) (i : Nat) (loaded : Bool) : Bool :=
  (loaded && (s.chan i).desc.autoRequest) || (!(s.chan i).done && s.signalOn i)

/-- Steps 3 and 4 (42_channel_engine R175), under fuel: an activation that does not end hangs (70_reset R322, decision D30). -/
def activationLoop (nest : Nest) (i : Nat) : Nat → State → Out
  | 0, _ => .fault .hang
  | fuel + 1, s =>
    andThen (minorTransfer nest i s) fun s1 =>
      if (s1.chained i).goesOn i (s1.mustChain i) then activationLoop nest i fuel (s1.chained i)
      else .next (s1.chained i)

/-- Set or clear the re-entrancy guard (10_state R31). -/
def State.guard (s : State) (i : Nat) (b : Bool) : State := s.updateChan i fun c => { c with inProgress := b }

/-- `executeActivation(i)` (42_channel_engine R175). -/
def executeActivation (nest : Nest) (i : Nat) (s : State) : Out :=
  if (s.chan i).inProgress || (s.chan i).done then .next s
  else andThen (activationLoop nest i Config.loopFuel (s.guard i true)) fun s1 => .next (s1.guard i false)

/-- Arm or disarm the pull timer (41_pull_scheduler R152, R154). -/
def State.armPull (s : State) (i : Nat) (b : Bool) : State := s.updateChan i fun c => { c with pullArmed := b }

/-- `attemptStart(i)` (42_channel_engine R171). -/
def attemptStart (nest : Nest) (i : Nat) (s : State) : Out :=
  if s.pulls i then .next (s.armPull i true) else executeActivation nest i (s.reportPull i)

/-- Whether a link-load is followed by a start attempt (42_channel_engine R191). -/
def State.startsAfterLoad (s : State) (i : Nat) : Bool :=
  !(s.chan i).requestDisable && ((s.chan i).desc.autoRequest || s.signalOn i)

/-- `linkLoadOp(i)` (42_channel_engine R191). -/
def linkLoadOp (nest : Nest) (i : Nat) (s : State) : Out :=
  let s1 := s.chainLoad i
  if s1.startsAfterLoad i then attemptStart nest i s1 else .next s1

/-- The disarm test of a tick (41_pull_scheduler R154). -/
def State.disarmTest (s : State) (i : Nat) : State :=
  if !s.signalOn i || (s.chan i).done then s.armPull i false else s

/-- `TICK i` of an armed timer (41_pull_scheduler R154): the eligibility test, the activation, then the disarm test on the
state it left (decision D16). -/
def pullTick (nest : Nest) (i : Nat) (s : State) : Out :=
  andThen (if !(s.chan i).requestDisable && s.signalOn i then executeActivation nest i s else .next s) fun s1 =>
    .next (s1.disarmTest i)

end Sys2Proof.Machine
end

