-- ==== Sys2Proof/Machine/Registers.lean ====
section
/-! DEFINITION. Signal delivery (43_crossbar R210) and the register accesses (44_register_ops) as shared operations, the address
banks (R260), and how an operation nested inside a copy runs (20_memory R77). Every write stores first and runs its side
effects after, ascending by channel (R231). -/

namespace Sys2Proof.Machine

/-! ### Signal delivery -/

/-- Whether a delivered identifier starts channel `i` (43_crossbar R213). -/
def State.delivered (s : State) (k : SignalId) (i : Nat) : Bool :=
  matchesOf (s.chan i) k && (s.chan i).enabled && !(s.chan i).requestDisable

/-- The scan's test and start attempt of one channel (43_crossbar R213). -/
def deliver (nest : Nest) (k : SignalId) (i : Nat) (s : State) : Out :=
  if s.delivered k i then attemptStart nest i s else .next s

/-- `SIG id, level` (43_crossbar R210). -/
def signal (nest : Nest) (id : Word) (level : Bool) (s : State) : Out :=
  let k := sigIdOfWord id
  if level then forEach (deliver nest k) s.channels { s with asserted := insertId k s.asserted }
  else .next { s with asserted := eraseId k s.asserted }

/-! ### Controller-wide registers -/

/-- The channels a list of positions keeps where bit `i` of `v` is 1. -/
def selected (v : Word) (is : List Nat) : List Nat := is.filter fun i => v.getLsbD i

/-- The channels `WR ENABLE, v` enables (44_register_ops R232): the set `T`. -/
def State.newlyEnabled (s : State) (v : Word) : List Nat := (selected v s.channels).filter fun i => !(s.chan i).enabled

/-- The stores of `WR ENABLE, v` (44_register_ops R232). -/
def State.enableStores (s : State) (v : Word) : State :=
  s.mapChan fun i c => if v.getLsbD i && !c.enabled then { c with enabled := true, done := false } else c

/-- `WR ENABLE, v` (44_register_ops R232). -/
def writeEnable (nest : Nest) (v : Word) (s : State) : Out :=
  forEach (attemptStart nest) (s.newlyEnabled v) (s.enableStores v)

/-- `WR DISABLE, v` (44_register_ops R234). -/
def State.writeDisable (s : State) (v : Word) : State :=
  s.mapChan fun i c => if v.getLsbD i then { c with enabled := false } else c

/-- `WR DONE, v` (44_register_ops R236). -/
def State.writeDone (s : State) (v : Word) : State := s.mapChan fun i c => { c with done := v.getLsbD i }

/-- `WR INTFLAG, v` (44_register_ops R237). -/
def State.writeIntflag (s : State) (v : Word) : State := s.mapChan fun i c => { c with doneInterrupt := v.getLsbD i }

/-- `WR INTEN, v` (44_register_ops R238). -/
def State.writeInten (s : State) (v : Word) : State :=
  s.mapChan fun i c => { c with doneInterruptEnable := v.getLsbD i }

/-- The software force request of one channel (44_register_ops R240). -/
def forceOne (nest : Nest) (i : Nat) (s : State) : Out :=
  if (s.chan i).enabled then attemptStart nest i s else .next (s.diag (.forceOnDisabled i))

/-- `WR FORCE, v` (44_register_ops R240). -/
def writeForce (nest : Nest) (v : Word) (s : State) : Out := forEach (forceOne nest) (selected v s.channels) s

/-- `WR LINKLOAD, v` (44_register_ops R242). -/
def writeLinkload (nest : Nest) (v : Word) (s : State) : Out := forEach (linkLoadOp nest) (selected v s.channels) s

/-- The stores of `WR REQDISABLE, v` (44_register_ops R244). -/
def State.reqdisableStores (s : State) (v : Word) : State :=
  s.mapChan fun i c => { c with requestDisable := v.getLsbD i }

/-- The channels whose `requestDisable` a write of `v` takes from true to false (44_register_ops R244). -/
def State.released (s : State) (v : Word) : List Nat :=
  s.channels.filter fun i => (s.chan i).requestDisable && !v.getLsbD i

/-- The catch-up of one released channel (44_register_ops R244). -/
def catchUp (nest : Nest) (i : Nat) (s : State) : Out := if s.signalOn i then attemptStart nest i s else .next s

/-- `WR REQDISABLE, v` (44_register_ops R244). -/
def writeReqdisable (nest : Nest) (v : Word) (s : State) : Out :=
  forEach (catchUp nest) (s.released v) (s.reqdisableStores v)

/-! ### Per-channel registers -/

/-- `WR REQSEL[i], source, signal` (44_register_ops R246). -/
def State.writeReqsel (s : State) (i : Nat) (source : BitVec 6) (signal : BitVec 4) : State :=
  s.updateChan i fun c => { c with sourceSelector := source, signalSelector := signal }

/-- `WR CONFIG[i], v` (44_register_ops R248). -/
def State.writeConfig (s : State) (i : Nat) (v : Word) : State := s.updateChan i fun c => { c with config := v }

/-- `WR LOOP[i], v` (44_register_ops R249). -/
def State.writeLoop (s : State) (i : Nat) (v : Word) : State := s.updateChan i fun c => { c with loop := v }

/-- The stores of `WR CTRL[i], v` (44_register_ops R251, R253). -/
def State.ctrlStores (s : State) (i : Nat) (v : Word) : State := s.updateDesc i (withWrittenControl v)

/-- `WR CTRL[i], v` (44_register_ops R251, R252). -/
def writeCtrl (nest : Nest) (i : Nat) (v : Word) (s : State) : Out :=
  let s1 := s.ctrlStores i v
  if (s1.chan i).desc.autoRequest then linkLoadOp nest i s1 else .next s1

/-- `WR SRCADDR[i], v` (44_register_ops R254). -/
def State.writeSrcaddr (s : State) (i : Nat) (v : Word) : State := s.updateDesc i fun d => { d with sourceAddress := v }

/-- `WR DSTADDR[i], v` (44_register_ops R255). -/
def State.writeDstaddr (s : State) (i : Nat) (v : Word) : State :=
  s.updateDesc i fun d => { d with destinationAddress := v }

/-- `WR LINK[i], v` (44_register_ops R256). -/
def State.writeLink (s : State) (i : Nat) (v : Word) : State := s.updateDesc i (withLinkWord v)

/-! ### Any register -/

/-- What `RD r` returns (44_register_ops R233 to R257); the write-only registers read 0. -/
def State.readReg (s : State) (r : RegName) : Word :=
  match r with
  | .enable => s.bankWord Channel.enabled
  | .disable => 0
  | .status => s.bankWord Channel.inProgress
  | .done => s.bankWord Channel.done
  | .intflag => s.bankWord Channel.doneInterrupt
  | .inten => s.bankWord Channel.doneInterruptEnable
  | .force => 0
  | .linkload => 0
  | .reqdisable => s.bankWord Channel.requestDisable
  | .reqsel i => reqselWord s.params (s.chan i).sourceSelector (s.chan i).signalSelector
  | .config i => (s.chan i).config
  | .loop i => (s.chan i).loop
  | .ctrl i => controlWord (s.chan i).desc
  | .srcaddr i => (s.chan i).desc.sourceAddress
  | .dstaddr i => (s.chan i).desc.destinationAddress
  | .link i => linkWord (s.chan i).desc

/-- The plain write `WR r, v` of a register of the block; a write of the read-only STATUS is ignored (44_register_ops R235). -/
def writeReg (nest : Nest) (r : RegName) (v : Word) (s : State) : Out :=
  match r with
  | .enable => writeEnable nest v s
  | .disable => .next (s.writeDisable v)
  | .status => .next s
  | .done => .next (s.writeDone v)
  | .intflag => .next (s.writeIntflag v)
  | .inten => .next (s.writeInten v)
  | .force => writeForce nest v s
  | .linkload => writeLinkload nest v s
  | .reqdisable => writeReqdisable nest v s
  | .reqsel i => .next (s.writeReqsel i (reqselSource s.params v) (reqselSignal s.params v))
  | .config i => .next (s.writeConfig i v)
  | .loop i => .next (s.writeLoop i v)
  | .ctrl i => writeCtrl nest i v s
  | .srcaddr i => .next (s.writeSrcaddr i v)
  | .dstaddr i => .next (s.writeDstaddr i v)
  | .link i => .next (s.writeLink i v)

/-- Whether the register belongs to a channel that exists. -/
def State.hasReg (s : State) (r : RegName) : Bool := r.channel?.all fun i => decide (i < s.numChannels)

/-- A write of `v` through a bank: read, combine, write, as one operation (44_register_ops R260). -/
def writeVia (nest : Nest) (bank : Bank) (r : RegName) (v : Word) (s : State) : Out :=
  if s.hasReg r then writeReg nest r (combine bank (s.readReg r) v) s else .refused .noSuchChannel

/-- A write at a register address (30_encoding R112). -/
def writeAddress (nest : Nest) (bank : BitVec 2) (offset : BitVec 12) (v : Word) (s : State) : Out :=
  match resolve s.params bank offset with
  | some (b, r) => writeVia nest b r v s
  | none => .refused .unmappedOffset

/-- A read at a register address: the same through every bank (44_register_ops R265). -/
def readAddress (bank : BitVec 2) (offset : BitVec 12) (s : State) : Out :=
  match resolve s.params bank offset with
  | some (_, r) => if s.hasReg r then .next (s.answer (.word (s.readReg r))) else .refused .noSuchChannel
  | none => .refused .unmappedOffset

/-! ### Nested operations (20_memory R77) -/

/-- An alias bank must exist (00_scope R6). -/
def State.hasBank (s : State) (bank : Bank) : Bool := decide (bank = .plain) || s.params.hasAliasBanks

/-- One nested operation, by its ordinary rule on the state as it is; a nested read changes nothing (20_memory R75). -/
def applyEnvOp (nest : Nest) (op : EnvOp) (s : State) : Out :=
  match op with
  | .sig id level => signal nest id level s
  | .rd bank r =>
    if !s.hasBank bank then .refused .noAliasBanks
    else if s.hasReg r then .next s else .refused .noSuchChannel
  | .wr bank r v => if s.hasBank bank then writeVia nest bank r v s else .refused .noAliasBanks
  | .wrReqsel i source signal => withChannel s i (.next (s.writeReqsel i source signal))

/-- Nested operations to a depth. Every copy takes one entry of the script and only an entry that is there holds operations,
so the depth `copyEnv.length` is never used up: the fault is out of reach (log 10). -/
def nested : Nat → Nest
  | 0 => fun _ _ => .fault .hang
  | depth + 1 => applyEnvOp (nested depth)

/-- How operations nested inside the copies of an operation begun in `s` run. -/
def State.nest (s : State) : Nest := nested s.copyEnv.length

end Sys2Proof.Machine
end

