-- ==== Sys2Proof/Machine/AddressBanks.lean ====
section
/-! DEFINITION. The address-level accesses, through the plain, Set, Clear and Toggle banks (30_encoding R112, 44_register_ops R260 to R266). -/

namespace Sys2Proof.Machine

/-- `WR reg, V (plain bank)` at offset `r` of bank 0 (44_register_ops R230). -/
def execWrPlain (r : BitVec 12) (v : Word) (s : State) : Out :=
  writeAddress s.nest 0 r v s

/-- `WR.SET reg, V` at offset `r` of bank 1 (44_register_ops R262). -/
def execWrSet (r : BitVec 12) (v : Word) (s : State) : Out :=
  writeAddress s.nest 1 r v s

/-- `WR.CLR reg, V` at offset `r` of bank 2 (44_register_ops R263). -/
def execWrClr (r : BitVec 12) (v : Word) (s : State) : Out :=
  writeAddress s.nest 2 r v s

/-- `WR.TGL reg, V` at offset `r` of bank 3 (44_register_ops R264). -/
def execWrTgl (r : BitVec 12) (v : Word) (s : State) : Out :=
  writeAddress s.nest 3 r v s

/-- `RD reg (any bank)` (44_register_ops R265). -/
def execRdAny (bank : BitVec 2) (r : BitVec 12) (s : State) : Out :=
  readAddress bank r s

end Sys2Proof.Machine
end

