-- ==== Sys2Proof/Machine/BankRegs.lean ====
section
/-! DEFINITION. The controller-wide registers (44_register_ops R232 to R244). The value of a read is delivered as the result of the operation
(log 12). -/

namespace Sys2Proof.Machine

/-- `WR ENABLE, v` (44_register_ops R232). -/
def execWrEnable (v : Word) (s : State) : Out :=
  writeEnable s.nest v s

/-- `RD ENABLE` (44_register_ops R233). -/
def execRdEnable (s : State) : Out :=
  .next (s.answer (.word (s.readReg .enable)))

/-- `WR DISABLE, v` (44_register_ops R234). -/
def execWrDisable (v : Word) (s : State) : Out :=
  .next (s.writeDisable v)

/-- `RD DISABLE` (44_register_ops R234). -/
def execRdDisable (s : State) : Out :=
  .next (s.answer (.word (s.readReg .disable)))

/-- `WR STATUS, v`: ignored without a diagnostic (44_register_ops R235, R230). -/
def execWrStatus (_v : Word) (s : State) : Out :=
  .next s

/-- `RD STATUS` (44_register_ops R235). -/
def execRdStatus (s : State) : Out :=
  .next (s.answer (.word (s.readReg .status)))

/-- `WR DONE, v` (44_register_ops R236). -/
def execWrDone (v : Word) (s : State) : Out :=
  .next (s.writeDone v)

/-- `RD DONE` (44_register_ops R236). -/
def execRdDone (s : State) : Out :=
  .next (s.answer (.word (s.readReg .done)))

/-- `WR INTFLAG, v` (44_register_ops R237); the outputs follow as functions of the state (60_exceptions R288). -/
def execWrIntflag (v : Word) (s : State) : Out :=
  .next (s.writeIntflag v)

/-- `RD INTFLAG` (44_register_ops R237). -/
def execRdIntflag (s : State) : Out :=
  .next (s.answer (.word (s.readReg .intflag)))

/-- `WR INTEN, v` (44_register_ops R238); the outputs follow as functions of the state (60_exceptions R288). -/
def execWrInten (v : Word) (s : State) : Out :=
  .next (s.writeInten v)

/-- `RD INTEN` (44_register_ops R238). -/
def execRdInten (s : State) : Out :=
  .next (s.answer (.word (s.readReg .inten)))

/-- `WR FORCE, v` (44_register_ops R240). -/
def execWrForce (v : Word) (s : State) : Out :=
  writeForce s.nest v s

/-- `RD FORCE` (44_register_ops R240). -/
def execRdForce (s : State) : Out :=
  .next (s.answer (.word (s.readReg .force)))

/-- `WR LINKLOAD, v` (44_register_ops R242). -/
def execWrLinkload (v : Word) (s : State) : Out :=
  writeLinkload s.nest v s

/-- `RD LINKLOAD` (44_register_ops R242). -/
def execRdLinkload (s : State) : Out :=
  .next (s.answer (.word (s.readReg .linkload)))

/-- `WR REQDISABLE, v` (44_register_ops R244). -/
def execWrReqdisable (v : Word) (s : State) : Out :=
  writeReqdisable s.nest v s

/-- `RD REQDISABLE` (44_register_ops R244). -/
def execRdReqdisable (s : State) : Out :=
  .next (s.answer (.word (s.readReg .reqdisable)))

end Sys2Proof.Machine
end

