-- ==== Sys2Proof/Machine/ChannelRegs.lean ====
section
/-! DEFINITION. The per-channel registers (44_register_ops R246 to R257). -/

namespace Sys2Proof.Machine

/-- `WR REQSEL[i], source, signal` (44_register_ops R246). -/
def execWrReqsel (i : Nat) (source : BitVec 6) (signal : BitVec 4) (s : State) : Out :=
  withChannel s i (.next (s.writeReqsel i source signal))

/-- `RD REQSEL[i]`: the two fields (44_register_ops R246). -/
def execRdReqsel (i : Nat) (s : State) : Out :=
  withChannel s i (.next (s.answer (.fields (s.chan i).sourceSelector (s.chan i).signalSelector)))

/-- `WR CONFIG[i], v` (44_register_ops R248). -/
def execWrConfig (i : Nat) (v : Word) (s : State) : Out :=
  withChannel s i (.next (s.writeConfig i v))

/-- `RD CONFIG[i]` (44_register_ops R248). -/
def execRdConfig (i : Nat) (s : State) : Out :=
  withChannel s i (.next (s.answer (.word (s.readReg (.config i)))))

/-- `WR LOOP[i], v` (44_register_ops R249). -/
def execWrLoop (i : Nat) (v : Word) (s : State) : Out :=
  withChannel s i (.next (s.writeLoop i v))

/-- `RD LOOP[i]` (44_register_ops R249). -/
def execRdLoop (i : Nat) (s : State) : Out :=
  withChannel s i (.next (s.answer (.word (s.readReg (.loop i)))))

/-- `WR CTRL[i], v` (44_register_ops R251, R252, R253). -/
def execWrCtrl (i : Nat) (v : Word) (s : State) : Out :=
  withChannel s i (writeCtrl s.nest i v s)

/-- `RD CTRL[i]` (44_register_ops R250). -/
def execRdCtrl (i : Nat) (s : State) : Out :=
  withChannel s i (.next (s.answer (.word (s.readReg (.ctrl i)))))

/-- `WR SRCADDR[i], v` (44_register_ops R254). -/
def execWrSrcaddr (i : Nat) (v : Word) (s : State) : Out :=
  withChannel s i (.next (s.writeSrcaddr i v))

/-- `RD SRCADDR[i]` (44_register_ops R254). -/
def execRdSrcaddr (i : Nat) (s : State) : Out :=
  withChannel s i (.next (s.answer (.word (s.readReg (.srcaddr i)))))

/-- `WR DSTADDR[i], v` (44_register_ops R255). -/
def execWrDstaddr (i : Nat) (v : Word) (s : State) : Out :=
  withChannel s i (.next (s.writeDstaddr i v))

/-- `RD DSTADDR[i]` (44_register_ops R255). -/
def execRdDstaddr (i : Nat) (s : State) : Out :=
  withChannel s i (.next (s.answer (.word (s.readReg (.dstaddr i)))))

/-- `WR LINK[i], v` (44_register_ops R256). -/
def execWrLink (i : Nat) (v : Word) (s : State) : Out :=
  withChannel s i (.next (s.writeLink i v))

/-- `RD LINK[i]` (44_register_ops R257). -/
def execRdLink (i : Nat) (s : State) : Out :=
  withChannel s i (.next (s.answer (.word (s.readReg (.link i)))))

end Sys2Proof.Machine
end

