-- ==== Sys2Proof/Machine/Events.lean ====
section
/-! DEFINITION. The three events (opcode table, format EVENT). -/

namespace Sys2Proof.Machine

/-- A channel after `RESET` (70_reset R310): everything but its index at the reset value. -/
def resetChannel (c : Channel) : Channel := Channel.zero c.index

/-- `RESET` (70_reset R310). Memory and the diagnostic log are untouched, and so are the model's own fields (log 17). -/
def execReset (s : State) : Out :=
  .next { s with ch := s.ch.map resetChannel, asserted := [] }

/-- `SIG id, level` (43_crossbar R210 to R218). -/
def execSig (id : Word) (level : Bool) (s : State) : Out :=
  signal s.nest id level s

/-- `TICK i` (41_pull_scheduler R154): it can happen only while the timer is armed (log 15). -/
def execTick (i : Nat) (s : State) : Out :=
  withChannel s i (if (s.chan i).pullArmed then pullTick s.nest i s else .refused .timerNotArmed)

end Sys2Proof.Machine
end

