-- ==== Sys2Proof/Machine/Formats.lean ====
section
/-! DEFINITION. The encoded words and the codec as operations: each delivers what the spec's format says its operand stands for and changes
nothing else (log 13, log 14). -/

namespace Sys2Proof.Machine

/-- The 32 bytes of a descriptor that holds the word `w` as word `j` and is 0 elsewhere. -/
def loneWord (j : Nat) (w : Word) : List Byte :=
  List.replicate (4 * j) 0 ++ bytesOfWord w ++ List.replicate (28 - 4 * j) 0

/-- `DESC.W0`: the fields word 0 carries (30_encoding R92). -/
def execDescW0 (w : Word) (s : State) : Out :=
  .next (s.answer (.desc (decodeDescriptor (loneWord 0 w))))

/-- `DESC.W1`: the fields word 1 carries (30_encoding R93). -/
def execDescW1 (w : Word) (s : State) : Out :=
  .next (s.answer (.desc (decodeDescriptor (loneWord 1 w))))

/-- `DESC.W2`: the fields word 2 carries (30_encoding R94). -/
def execDescW2 (w : Word) (s : State) : Out :=
  .next (s.answer (.desc (decodeDescriptor (loneWord 2 w))))

/-- `DESC.W3`: the fields word 3 carries (30_encoding R95). -/
def execDescW3 (w : Word) (s : State) : Out :=
  .next (s.answer (.desc (decodeDescriptor (loneWord 3 w))))

/-- `DESC.W4..W7`: bytes 16 to 31 hold no field (30_encoding R96); the word is ignored. -/
def execDescW4to7 (w : Word) (s : State) : Out :=
  .next (s.answer (.desc (decodeDescriptor (List.replicate 16 0 ++ bytesOfWord w ++ bytesOfWord w ++
    bytesOfWord w ++ bytesOfWord w))))

/-- `SIGID`: the triple of an identifier number (30_encoding R110, R111). -/
def execSigId (id : Word) (s : State) : Out :=
  .next (s.answer (.sigId (sigIdOfWord id)))

/-- `decode(b)` (40_codec R130). -/
def execDecodeDesc (b : List Byte) (s : State) : Out :=
  if bytesOk b then .next (s.answer (.desc (decodeDescriptor b))) else .refused .illFormed

/-- `encode(d)` (40_codec R131). -/
def execEncodeDesc (d : TransferDescriptor) (s : State) : Out :=
  .next (s.answer (.bytes (encodeDescriptor d)))

end Sys2Proof.Machine
end

