-- ==== Sys2Proof/Machine/Procedures.lean ====
section
/-! DEFINITION. The internal procedures run as operations of their own (log 13). -/

namespace Sys2Proof.Machine

/-- `shouldPull(i)` (41_pull_scheduler R151). -/
def execShouldPull (i : Nat) (s : State) : Out :=
  withChannel s i (.next ((s.reportPull i).answer (.flag (s.pulls i))))

/-- `attemptStart(i)` (42_channel_engine R171). -/
def execAttemptStart (i : Nat) (s : State) : Out :=
  withChannel s i (attemptStart s.nest i s)

/-- `executeActivation(i)` (42_channel_engine R175). -/
def execExecuteActivation (i : Nat) (s : State) : Out :=
  withChannel s i (executeActivation s.nest i s)

/-- `minorTransfer(i)` (42_channel_engine R180 to R184). -/
def execMinorTransfer (i : Nat) (s : State) : Out :=
  withChannel s i (minorTransfer s.nest i s)

/-- `setDone(i)` (42_channel_engine R186). -/
def execSetDone (i : Nat) (s : State) : Out :=
  withChannel s i (.next (s.complete i))

/-- `chainLoad(i)` (42_channel_engine R190). -/
def execChainLoad (i : Nat) (s : State) : Out :=
  withChannel s i (.next (s.chainLoad i))

/-- `linkLoadOp(i)` (42_channel_engine R191). -/
def execLinkLoadOp (i : Nat) (s : State) : Out :=
  withChannel s i (linkLoadOp s.nest i s)

/-- `matches(i, k)` (43_crossbar R211). -/
def execMatchesId (i : Nat) (k : SignalId) (s : State) : Out :=
  withChannel s i (.next (s.answer (.flag (matchesOf (s.chan i) k))))

/-- `signalIsOn(i)` (43_crossbar R215). -/
def execSignalIsOn (i : Nat) (s : State) : Out :=
  withChannel s i (.next (s.answer (.flag (s.signalOn i))))

/-- `updateInterrupts()`: recompute the outputs from the state and drive the wired ones (60_exceptions R288, R289; log 11). -/
def execUpdateInterrupts (s : State) : Out :=
  .next (s.answer s.wiredIrq)

end Sys2Proof.Machine
end

