-- ==== Sys2Proof/Machine/Dispatch.lean ====
section
/-! DEFINITION. The meaning of every operation, one arm per row of the opcode table. -/

namespace Sys2Proof.Machine

def exec (i : Instr) (s : State) : Host.Outcome State Fault Refusal :=
  match i with
  | .reset => Sys2Proof.Machine.execReset s
  | .sig id level => Sys2Proof.Machine.execSig id level s
  | .tick n => Sys2Proof.Machine.execTick n s
  | .wrEnable v => Sys2Proof.Machine.execWrEnable v s
  | .rdEnable => Sys2Proof.Machine.execRdEnable s
  | .wrDisable v => Sys2Proof.Machine.execWrDisable v s
  | .rdDisable => Sys2Proof.Machine.execRdDisable s
  | .wrStatus v => Sys2Proof.Machine.execWrStatus v s
  | .rdStatus => Sys2Proof.Machine.execRdStatus s
  | .wrDone v => Sys2Proof.Machine.execWrDone v s
  | .rdDone => Sys2Proof.Machine.execRdDone s
  | .wrIntflag v => Sys2Proof.Machine.execWrIntflag v s
  | .rdIntflag => Sys2Proof.Machine.execRdIntflag s
  | .wrInten v => Sys2Proof.Machine.execWrInten v s
  | .rdInten => Sys2Proof.Machine.execRdInten s
  | .wrForce v => Sys2Proof.Machine.execWrForce v s
  | .rdForce => Sys2Proof.Machine.execRdForce s
  | .wrLinkload v => Sys2Proof.Machine.execWrLinkload v s
  | .rdLinkload => Sys2Proof.Machine.execRdLinkload s
  | .wrReqdisable v => Sys2Proof.Machine.execWrReqdisable v s
  | .rdReqdisable => Sys2Proof.Machine.execRdReqdisable s
  | .wrReqsel n source signal => Sys2Proof.Machine.execWrReqsel n source signal s
  | .rdReqsel n => Sys2Proof.Machine.execRdReqsel n s
  | .wrConfig n v => Sys2Proof.Machine.execWrConfig n v s
  | .rdConfig n => Sys2Proof.Machine.execRdConfig n s
  | .wrLoop n v => Sys2Proof.Machine.execWrLoop n v s
  | .rdLoop n => Sys2Proof.Machine.execRdLoop n s
  | .wrCtrl n v => Sys2Proof.Machine.execWrCtrl n v s
  | .rdCtrl n => Sys2Proof.Machine.execRdCtrl n s
  | .wrSrcaddr n v => Sys2Proof.Machine.execWrSrcaddr n v s
  | .rdSrcaddr n => Sys2Proof.Machine.execRdSrcaddr n s
  | .wrDstaddr n v => Sys2Proof.Machine.execWrDstaddr n v s
  | .rdDstaddr n => Sys2Proof.Machine.execRdDstaddr n s
  | .wrLink n v => Sys2Proof.Machine.execWrLink n v s
  | .rdLink n => Sys2Proof.Machine.execRdLink n s
  | .wrPlain r v => Sys2Proof.Machine.execWrPlain r v s
  | .wrSet r v => Sys2Proof.Machine.execWrSet r v s
  | .wrClr r v => Sys2Proof.Machine.execWrClr r v s
  | .wrTgl r v => Sys2Proof.Machine.execWrTgl r v s
  | .rdAny bank r => Sys2Proof.Machine.execRdAny bank r s
  | .descW0 v => Sys2Proof.Machine.execDescW0 v s
  | .descW1 v => Sys2Proof.Machine.execDescW1 v s
  | .descW2 v => Sys2Proof.Machine.execDescW2 v s
  | .descW3 v => Sys2Proof.Machine.execDescW3 v s
  | .descW4to7 v => Sys2Proof.Machine.execDescW4to7 v s
  | .sigId v => Sys2Proof.Machine.execSigId v s
  | .decodeDesc b => Sys2Proof.Machine.execDecodeDesc b s
  | .encodeDesc d => Sys2Proof.Machine.execEncodeDesc d s
  | .shouldPull n => Sys2Proof.Machine.execShouldPull n s
  | .attemptStart n => Sys2Proof.Machine.execAttemptStart n s
  | .executeActivation n => Sys2Proof.Machine.execExecuteActivation n s
  | .minorTransfer n => Sys2Proof.Machine.execMinorTransfer n s
  | .setDone n => Sys2Proof.Machine.execSetDone n s
  | .chainLoad n => Sys2Proof.Machine.execChainLoad n s
  | .linkLoadOp n => Sys2Proof.Machine.execLinkLoadOp n s
  | .matchesId n k => Sys2Proof.Machine.execMatchesId n k s
  | .signalIsOn n => Sys2Proof.Machine.execSignalIsOn n s
  | .updateInterrupts => Sys2Proof.Machine.execUpdateInterrupts s

end Sys2Proof.Machine
end

