-- ==== Sys2Proof/Machine/Step.lean ====
section
/-! DEFINITION. One step: the operation at the head of the operation stream runs to completion (log 1). -/

namespace Sys2Proof.Machine

/-- One operation. With no operation pending the block is idle and does nothing (70_reset R311). -/
def step (s : State) : Host.Outcome State Fault Refusal :=
  if s.pending.isEmpty then .next s
  else
    match Sys2Proof.decode s.pending with
    | .ok (i, rest) => exec i { s with pending := rest }
    | .error e => .refused (.badOperation e)

/-- `s` with the packet that the table word `w` stands for as the next operation (log 3). -/
def State.withFetchWord (s : State) (nbits w : Nat) : State :=
  { s with pending := Sys2Proof.tablePacket nbits w ++ s.pending }

end Sys2Proof.Machine
end

