-- ==== Sys2Proof/Safety.lean ====
section
/-! DEFINITION. What counts as a good state between two operations, and what the statements are written in: frames, side effects
in turn, the spec's tables, the unit moves of a copy, operations nested inside it, a descriptor run to its end. -/

namespace Sys2Proof.Machine

/-- What every channel keeps between operations: its index is its position (10_state R33), `descLoadAddr` is a multiple of 4
(10_state R28), and no activation is running (10_state R31). -/
abbrev channelGood (i : Nat) (c : Channel) : Prop :=
  c.index = i ∧ c.descLoadAddr.toNat % 4 = 0 ∧ c.inProgress = false

/-- The invariant of the machine between operations: the parameters are ones 00_scope R6 allows, memory and the crossbar's
set have their canonical form, and every channel is good. -/
structure State.Good (s : State) : Prop where
  params : s.params.wf s.numChannels
  mem : s.mem.wf
  asserted : idsWf s.asserted
  channels : ∀ i, i < s.numChannels → channelGood i (s.chan i)

/-- The environment does nothing inside the copies to come (20_memory R77 allows any finite sequence, the empty one too). -/
abbrev State.quiet (s : State) : Prop := s.copyEnv = []

/-- `t` differs from `s` in channels only, and has as many. -/
def SameButChannels (s t : State) : Prop := t = { s with ch := t.ch } ∧ t.numChannels = s.numChannels

/-- `t` is `s` with channel `i` become `c`: every other channel and every other field is unchanged. -/
def ChannelBecomes (s t : State) (i : Nat) (c : Channel) : Prop :=
  SameButChannels s t ∧ t.chan i = c ∧ ∀ k, k ≠ i → t.chan k = s.chan k

/-- The addresses a `Copy` call stores to (20_memory R67): unit `k` goes to `dst + k*dInc .. dst + k*dInc + ww - 1`. A
descriptor fetch stores nothing. -/
def storesTo (c : BusCall) (a : Word) : Prop :=
  match c with
  | .memRead _ _ => False
  | .copy _ dst size _ ww _ dInc _ _ =>
    ∃ k j, k * ww < size ∧ j < ww ∧ a = dst + BitVec.ofNat 32 (dInc * k) + BitVec.ofNat 32 j

/-- The three conditions under which a delivery of `k` attempts a start of channel `c` (43_crossbar R213). -/
def startable (c : Channel) (k : SignalId) : Bool := matchesOf c k && c.enabled && !c.requestDisable

/-- The operations that run the channel engine and store no register themselves: a signal, a tick, the two write-one triggers
and the engine's procedures. -/
def engineOp : Instr → Bool
  | .sig _ _ | .tick _ | .wrForce _ | .wrLinkload _ | .attemptStart _ | .executeActivation _ | .minorTransfer _
  | .setDone _ | .chainLoad _ | .linkLoadOp _ => true
  | .reset | .wrEnable _ | .rdEnable | .wrDisable _ | .rdDisable | .wrStatus _ | .rdStatus | .wrDone _ | .rdDone
  | .wrIntflag _ | .rdIntflag | .wrInten _ | .rdInten | .rdForce | .rdLinkload | .wrReqdisable _ | .rdReqdisable
  | .wrReqsel _ _ _ | .rdReqsel _ | .wrConfig _ _ | .rdConfig _ | .wrLoop _ _ | .rdLoop _ | .wrCtrl _ _ | .rdCtrl _
  | .wrSrcaddr _ _ | .rdSrcaddr _ | .wrDstaddr _ _ | .rdDstaddr _ | .wrLink _ _ | .rdLink _ | .wrPlain _ _
  | .wrSet _ _ | .wrClr _ _ | .wrTgl _ _ | .rdAny _ _ | .descW0 _ | .descW1 _ | .descW2 _ | .descW3 _
  | .descW4to7 _ | .sigId _ | .decodeDesc _ | .encodeDesc _ | .shouldPull _ | .matchesId _ _ | .signalIsOn _
  | .updateInterrupts => false

/-- The seven fields of a channel that a register write or `RESET` changes and the engine never does (10_state R29, R30, R34,
R35). -/
def softwareFields (c : Channel) : Bool × Bool × Bool × BitVec 6 × BitVec 4 × Word × Word :=
  (c.enabled, c.requestDisable, c.doneInterruptEnable, c.sourceSelector, c.signalSelector, c.config, c.loop)

/-! ### Side effects in turn -/

/-- `act` for each channel of the list, in the list's order, each on the state the one before it left; a fault or a refusal
ends the operation (44_register_ops R231, 43_crossbar R213). -/
def inTurn (act : Nat → State → Out) : List Nat → State → Out
  | [], s => .next s
  | i :: rest, s =>
    match act i s with
    | .next t => inTurn act rest t
    | .fault r => .fault r
    | .refused r => .refused r

/-- The channels of the 1 bits of a written word, ascending. -/
def State.bitsOf (s : State) (v : Word) : List Nat := (List.range s.numChannels).filter fun i => v.getLsbD i

/-! ### The spec's tables, written out -/

/-- `structureKind` by code (30_encoding R97). -/
def kindTable : List StructureKind := [.transfer, .synchronize, .write, .invalid]

/-- `blockSize` by code (30_encoding R98). -/
def blockTable : List BlockSize :=
  [.unit1, .unit2, .unit3, .unit4, .unit6, .unit8, .reservedBlock6, .unit16, .reservedBlock8, .unit32, .unit64, .unit128,
   .unit256, .unit512, .unit1024, .all]

/-- The fixed entries of `blockUnits` (30_encoding R98). -/
def blockUnitsTable : List (BlockSize × Nat) :=
  [(.unit1, 1), (.unit2, 2), (.unit3, 3), (.unit4, 4), (.unit6, 6), (.unit8, 8), (.unit16, 16), (.unit32, 32), (.unit64, 64),
   (.unit128, 128), (.unit256, 256), (.unit512, 512), (.unit1024, 1024)]

/-- The increments by code (30_encoding R100). -/
def incTable : List Increment := [.x1, .x2, .x4, .none]

/-- `unitSize` by code (30_encoding R101). -/
def sizeTable : List UnitSize := [.byte, .halfWord, .word, .reservedSize]

/-- `d` with the fields a `CTRL` write of `v` stores (44_register_ops R251); `structureKind` and the addressing modes stay
(R253). -/
def ctrlStored (v : Word) (d : TransferDescriptor) : TransferDescriptor :=
  { d with
    autoRequest := v.getLsbD 3
    transferCount := v.extractLsb' 4 11
    byteSwap := v.getLsbD 15
    blockSize := blockTable.getD (v.extractLsb' 16 4).toNat .all
    doneInterruptEnable := v.getLsbD 20
    requestMode := if v.getLsbD 21 then .all else .block
    decrementLoopCount := v.getLsbD 22
    ignoreSingleRequests := v.getLsbD 23
    sourceIncrement := incTable.getD (v.extractLsb' 24 2).toNat .none
    unitSize := sizeTable.getD (v.extractLsb' 26 2).toNat .reservedSize
    destinationIncrement := incTable.getD (v.extractLsb' 28 2).toNat .none }

/-! ### Registers by name -/

/-- The row that writes register `r`. The two fields of a `REQSEL` word lie where the parameters place them (log 5). -/
def writeRow (p : Params) (r : RegName) (v : Word) : Instr :=
  match r with
  | .enable => .wrEnable v
  | .disable => .wrDisable v
  | .status => .wrStatus v
  | .done => .wrDone v
  | .intflag => .wrIntflag v
  | .inten => .wrInten v
  | .force => .wrForce v
  | .linkload => .wrLinkload v
  | .reqdisable => .wrReqdisable v
  | .reqsel i => .wrReqsel i (v.extractLsb' p.reqselSourceLo 6) (v.extractLsb' p.reqselSignalLo 4)
  | .config i => .wrConfig i v
  | .loop i => .wrLoop i v
  | .ctrl i => .wrCtrl i v
  | .srcaddr i => .wrSrcaddr i v
  | .dstaddr i => .wrDstaddr i v
  | .link i => .wrLink i v

/-- The row that reads register `r`. -/
def readRow : RegName → Instr
  | .enable => .rdEnable
  | .disable => .rdDisable
  | .status => .rdStatus
  | .done => .rdDone
  | .intflag => .rdIntflag
  | .inten => .rdInten
  | .force => .rdForce
  | .linkload => .rdLinkload
  | .reqdisable => .rdReqdisable
  | .reqsel i => .rdReqsel i
  | .config i => .rdConfig i
  | .loop i => .rdLoop i
  | .ctrl i => .rdCtrl i
  | .srcaddr i => .rdSrcaddr i
  | .dstaddr i => .rdDstaddr i
  | .link i => .rdLink i

/-- `REG_OFFSET` places register `r` at `offset`, in a controller with alias banks whose registers have offsets of their own
(30_encoding R112, 00_scope R6). -/
abbrev State.maps (s : State) (offset : BitVec 12) (r : RegName) : Prop :=
  s.params.hasAliasBanks = true ∧ s.params.regOffset.Pairwise (fun a b => a.2 ≠ b.2) ∧ (r, offset.toNat) ∈ s.params.regOffset

/-- Channel `i`, with content `c`, after a plain write of `x` to a register whose plain write stores the value (44_register_ops
R266), side effects and `REQSEL` apart; another register stores nothing in it. -/
def stored (r : RegName) (x : Word) (i : Nat) (c : Channel) : Channel :=
  match r with
  | .done => { c with done := x.getLsbD i }
  | .intflag => { c with doneInterrupt := x.getLsbD i }
  | .inten => { c with doneInterruptEnable := x.getLsbD i }
  | .reqdisable => { c with requestDisable := x.getLsbD i }
  | .config _ => { c with config := x }
  | .loop _ => { c with loop := x }
  | .ctrl _ => { c with desc := ctrlStored x c.desc }
  | .srcaddr _ => { c with desc := { c.desc with sourceAddress := x } }
  | .dstaddr _ => { c with desc := { c.desc with destinationAddress := x } }
  | .link _ => { c with desc := { c.desc with
      linkMode := if x.getLsbD 0 then .relative else .absolute
      link := x.getLsbD 1
      linkAddress := x.extractLsb' 2 30 } }
  | .enable | .disable | .status | .force | .linkload | .reqsel _ => c

/-! ### What a copy does to memory -/

/-- Memory `m` after one unit of `w` bytes is read whole at `src` and written at `dst` (20_memory R67). -/
def unitMoved (m : Word → Byte) (src dst : Word) (w : Nat) : Word → Byte :=
  fun a => if (a - dst).toNat < w then m (src + (a - dst)) else m a

/-- Memory `m` after `n` units are moved in ascending order, the addresses advancing by the two steps, modulo `2^32`
(20_memory R67; log 7). -/
def unitsMoved (m : Word → Byte) (src dst : Word) (sInc dInc w : Nat) : Nat → Word → Byte
  | 0 => m
  | n + 1 => unitMoved (unitsMoved m src dst sInc dInc w n) (src + BitVec.ofNat 32 (sInc * n))
      (dst + BitVec.ofNat 32 (dInc * n)) w

/-- The `Copy` call of block `k` of descriptor `d`, blocks of `n` units of `w` bytes, the last one short (42_channel_engine
R180, R183). -/
def copyOfBlock (d : TransferDescriptor) (n w k : Nat) : BusCall :=
  let sInc := addressStep d.sourceIncrement w
  let dInc := addressStep d.destinationIncrement w
  let units := min n (remaining d - n * k)
  .copy (d.sourceAddress + BitVec.ofNat 32 (sInc * (n * k))) (d.destinationAddress + BitVec.ofNat 32 (dInc * (n * k)))
    (units * w) w w sInc dInc (d.sourceAddress + BitVec.ofNat 32 (sInc * (n * k + units)))
    (d.destinationAddress + BitVec.ofNat 32 (dInc * (n * k + units)))

/-! ### Operations nested inside a copy -/

/-- One nested operation, by its own row on the state as it is (20_memory R77). A write through a bank is the register's own
write of the combination; a read changes nothing in the block (20_memory R75); an absent bank or channel is refused (log 16). -/
def envAct (op : EnvOp) (s : State) : Out :=
  match op with
  | .sig id level => exec (.sig id level) s
  | .wrReqsel i source signal => exec (.wrReqsel i source signal) s
  | .rd bank r =>
    if bank ≠ .plain ∧ s.params.hasAliasBanks = false then .refused .noAliasBanks
    else if s.hasReg r then .next s else .refused .noSuchChannel
  | .wr bank r v =>
    if bank ≠ .plain ∧ s.params.hasAliasBanks = false then .refused .noAliasBanks
    else match bank with
      | .plain => exec (writeRow s.params r v) s
      | .set => exec (writeRow s.params r (s.readReg r ||| v)) s
      | .clear => exec (writeRow s.params r (s.readReg r &&& ~~~v)) s
      | .toggle => exec (writeRow s.params r (s.readReg r ^^^ v)) s

/-- Nested operations in order, each to completion on the state the one before it left (20_memory R77). -/
def envActs : List EnvOp → State → Out
  | [], s => .next s
  | op :: rest, s =>
    match envAct op s with
    | .next t => envActs rest t
    | .fault r => .fault r
    | .refused r => .refused r

/-- Channel `c` after its minor transfer of `n` units: `d` is the live descriptor before the copy, and the count and the two
addresses are computed from it; everything else is as the copy, and what was nested in it, left `c` (42_channel_engine R180,
R183, R184, R186, decision D25). -/
def transferred (d : TransferDescriptor) (n w : Nat) (c : Channel) : Channel :=
  let completed : Channel :=
    { c with done := true, doneInterrupt := c.doneInterrupt || (!c.done && c.desc.doneInterruptEnable) }
  let moved : TransferDescriptor :=
    { c.desc with
      transferCount := if remaining d = n then 0 else BitVec.ofNat 11 (remaining d - n - 1)
      sourceAddress := d.sourceAddress + BitVec.ofNat 32 (addressStep d.sourceIncrement w * n)
      destinationAddress := d.destinationAddress + BitVec.ofNat 32 (addressStep d.destinationIncrement w * n) }
  match d.requestMode with
  | .all => completed
  | .block => if remaining d = n then { completed with desc := moved } else { c with desc := moved }

/-! ### A descriptor run to its end -/

/-- The live descriptor of channel `i` is supported, moves units of `w` bytes, `n` of them in its next minor transfer. -/
abbrev State.supports (s : State) (i n w : Nat) : Prop :=
  (s.chan i).desc.structureKind = .transfer ∧ unitBytes (s.chan i).desc.unitSize = some w ∧
  transferUnits (s.chan i).desc = some n

/-- With no nested operation (log 8), an activation of channel `i` that is not dropped moves the whole live descriptor without
waiting: it is in `All` mode, or one block is left, or the signal is held on. -/
abbrev State.finishes (s : State) (i n w : Nat) : Prop :=
  i < s.numChannels ∧ s.quiet ∧ (s.chan i).inProgress = false ∧ (s.chan i).done = false ∧ s.supports i n w ∧
  ((s.chan i).desc.requestMode = .all ∨ remaining (s.chan i).desc = n ∨ s.signalOn i = true)

/-- `t` is `s` after every unit of channel `i`'s live descriptor is moved, in blocks of `n` units of `w` bytes: the calls on
the BUS port, memory as the unit moves leave it (and, whatever its form, unchanged outside the destination units), and the
channel: `done` set, the interrupt latched by the descriptor's gate, the count at 0 and the addresses past the last unit in
`Block` mode and kept in `All` mode. Nothing else differs (42_channel_engine R180, R183, R184, R186). -/
def DescriptorMoved (s t : State) (i n w : Nat) : Prop :=
  let c := s.chan i
  let d := c.desc
  let sInc := addressStep d.sourceIncrement w
  let dInc := addressStep d.destinationIncrement w
  t = { s with
        ch := t.ch, mem := t.mem
        busLog := s.busLog ++ (List.range ((remaining d + n - 1) / n)).map (copyOfBlock d n w) } ∧
  t.numChannels = s.numChannels ∧ (∀ k, k ≠ i → t.chan k = s.chan k) ∧
  (s.mem.wf → t.mem.wf ∧ ∀ a, t.readByte a =
    unitsMoved s.readByte d.sourceAddress d.destinationAddress sInc dInc w (remaining d) a) ∧
  (∀ a, (∀ k b, k < remaining d → b < w →
    a ≠ d.destinationAddress + BitVec.ofNat 32 (dInc * k) + BitVec.ofNat 32 b) → t.readByte a = s.readByte a) ∧
  t.chan i = { c with
    done := true
    doneInterrupt := c.doneInterrupt || d.doneInterruptEnable
    desc :=
      if d.requestMode = .all then d
      else { d with
             transferCount := 0
             sourceAddress := d.sourceAddress + BitVec.ofNat 32 (sInc * remaining d)
             destinationAddress := d.destinationAddress + BitVec.ofNat 32 (dInc * remaining d) } }

end Sys2Proof.Machine
end

