-- ==== Sys2Proof/Certificates/Slice0/Obligations.lean ====
section
/-! DEFINITION. The statements for the provers. Each docstring names the rule of spec/ it formalises, or says that it is about
the model's own choice and names the log entry. -/

open Sys2Proof Sys2Proof.Machine

/-! ## Encodings -/

/-- Decoding the packet of a well-formed operation gives the operation and leaves the rest of the stream. The packet format
is the model's (log 2). -/
def Obligations.DecodeReadsEncodedOperation : Prop :=
  ∀ (i : Instr) (rest : List Byte), i.wellFormed = true → decode (encode i ++ rest) = .ok (i, rest)

/-- Whatever the decoder accepts is well formed, and it takes bytes off the stream (log 2). -/
def Obligations.DecodedOperationIsWellFormed : Prop :=
  ∀ (b rest : List Byte) (i : Instr), decode b = .ok (i, rest) → i.wellFormed = true ∧ rest.length < b.length

/-- Words written out by hand decode to what they stand for. The register writes are packets of the model (class 0 in bits
15:14 of the first word, the data word after it; log 2) around the spec's own register addresses (30_encoding R112); the
identifier is 30_encoding R110's; the descriptor is the worked example of 40_codec R131, with every field it stands for. -/
def Obligations.SampleWordsDecode : Prop :=
  decode [0x14, 0x10, 0x02, 0, 0, 0] = .ok (.wrSet 0x014 2, []) ∧
  decode [0x10, 0x20, 0x02, 0, 0, 0] = .ok (.wrClr 0x010 2, []) ∧
  decode [0x14, 0x30, 0x03, 0, 0, 0] = .ok (.wrTgl 0x014 3, []) ∧
  sigIdOfWord 0x1031 = ⟨3, 1, true⟩ ∧
  decodeDescriptor [0xF8, 0x7F, 0xAF, 0x0B, 0x10, 0xC0, 0x00, 0x40, 0x00, 0x04, 0x00, 0x20, 0x23, 0, 0, 0] =
    { structureKind := .transfer, autoRequest := true, transferCount := 2047, byteSwap := false, blockSize := .all
      doneInterruptEnable := false, requestMode := .all, decrementLoopCount := false, ignoreSingleRequests := true
      sourceIncrement := .none, destinationIncrement := .x1, unitSize := .word, sourceAddressingMode := .absolute
      destinationAddressingMode := .absolute, sourceAddress := 0x4000C010, destinationAddress := 0x20000400
      linkMode := .relative, link := true, linkAddress := 8 } ∧
  controlWord (decodeDescriptor [0xF8, 0x7F, 0xAF, 0x0B, 0x10, 0xC0, 0x00, 0x40, 0x00, 0x04, 0x00, 0x20, 0x23, 0, 0, 0])
    = 0x0BAF7FF8

/-- R132: the codec is reversible; and a byte array comes back exactly when its reserved positions are zero. -/
def Obligations.DescriptorCodecIsReversible : Prop :=
  (∀ d : TransferDescriptor, (encodeDescriptor d).length = 32 ∧ decodeDescriptor (encodeDescriptor d) = d) ∧
  ∀ b : List Byte, b.length = 32 →
    (encodeDescriptor (decodeDescriptor b) = b ↔
      (wordAt b 0).getLsbD 2 = false ∧ b.drop 16 = List.replicate 16 0)

/-- R111: two identifier numbers are the same identifier exactly when they agree on bits 9:0 and 12. -/
def Obligations.IdentifierIgnoresUnusedBits : Prop :=
  ∀ a b : Word, sigIdOfWord a = sigIdOfWord b ↔ ∀ j, (j < 10 ∨ j = 12) → a.getLsbD j = b.getLsbD j

/-- The codec procedures complete for every operand: `decode` of words assembled least significant byte first (R61, R91,
R130), `encode` to 32 bytes that decode back with the last 16 zero (R131). -/
def Obligations.CodecProceduresComplete : Prop :=
  (∀ (s : State) (b : List Byte), b.length = 32 → ∃ w0 w1 w2 w3 : Word,
    exec (.decodeDesc b) s = .next (s.answer (.desc (descOfWords w0 w1 w2 w3))) ∧
    ∀ j w, (j, w) ∈ [(0, w0), (4, w1), (8, w2), (12, w3)] →
      w.toNat = (b.getD j 0).toNat + 256 * (b.getD (j + 1) 0).toNat + 65536 * (b.getD (j + 2) 0).toNat +
        16777216 * (b.getD (j + 3) 0).toNat) ∧
  ∀ (s : State) (d : TransferDescriptor), ∃ b : List Byte,
    exec (.encodeDesc d) s = .next (s.answer (.bytes b)) ∧ b.length = 32 ∧ decodeDescriptor b = d ∧
    b.drop 16 = List.replicate 16 0

/-- A descriptor word or an identifier number, run as an operation, delivers the fields its format gives it, each at its bits
and by its code table, and changes nothing else; the reserved bit and the reserved words carry no field (30_encoding R92 to
R103, R110). That these rows run at all is the model's choice (log 14). -/
def Obligations.EncodedWordsDeliverTheirFields : Prop :=
  ∀ (s : State) (w : Word),
    exec (.descW0 w) s = .next (s.answer (.desc
      { TransferDescriptor.zero with
        structureKind := kindTable.getD (w.extractLsb' 0 2).toNat .invalid
        autoRequest := w.getLsbD 3, transferCount := w.extractLsb' 4 11, byteSwap := w.getLsbD 15
        blockSize := blockTable.getD (w.extractLsb' 16 4).toNat .all
        doneInterruptEnable := w.getLsbD 20, requestMode := (if w.getLsbD 21 then .all else .block)
        decrementLoopCount := w.getLsbD 22, ignoreSingleRequests := w.getLsbD 23
        sourceIncrement := incTable.getD (w.extractLsb' 24 2).toNat .none
        unitSize := sizeTable.getD (w.extractLsb' 26 2).toNat .reservedSize
        destinationIncrement := incTable.getD (w.extractLsb' 28 2).toNat .none
        sourceAddressingMode := (if w.getLsbD 30 then .relative else .absolute)
        destinationAddressingMode := (if w.getLsbD 31 then .relative else .absolute) })) ∧
    exec (.descW1 w) s = .next (s.answer (.desc { TransferDescriptor.zero with sourceAddress := w })) ∧
    exec (.descW2 w) s = .next (s.answer (.desc { TransferDescriptor.zero with destinationAddress := w })) ∧
    exec (.descW3 w) s = .next (s.answer (.desc
      { TransferDescriptor.zero with
        linkMode := (if w.getLsbD 0 then .relative else .absolute), link := w.getLsbD 1
        linkAddress := w.extractLsb' 2 30 })) ∧
    exec (.descW4to7 w) s = .next (s.answer (.desc TransferDescriptor.zero)) ∧
    exec (.sigId w) s = .next (s.answer (.sigId
      { source := w.extractLsb' 4 6, signal := w.extractLsb' 0 4, single := w.getLsbD 12 }))

/-! ## The machine -/

/-- A step runs the decoded operation on the state without its packet; an empty stream is idle; a packet that is no
operation is refused. The stream is the model's (log 1). -/
def Obligations.StepRunsTheDecodedOperation : Prop :=
  (∀ (s : State) (i : Instr) (rest : List Byte), decode s.pending = .ok (i, rest) →
    step s = exec i { s with pending := rest }) ∧
  (∀ s : State, s.pending = [] → step s = .next s) ∧
  ∀ (s : State) (e : DecodeError), s.pending ≠ [] → decode s.pending = .error e → step s = .refused (.badOperation e)

/-- The state at construction is the state after `RESET` (70_reset R311, 10_state R44), for every parameter record and every
number of channels, and it is good where the parameters are legal; so is the machine's own reset state, whose parameters are
the model's choice (log 4). -/
def Obligations.InitialStateIsGoodAndReset : Prop :=
  State.reset.Good ∧
  ∀ (p : Params) (n : Nat), (State.initial p n).numChannels = n ∧
    exec .reset (State.initial p n) = .next (State.initial p n) ∧ (p.wf n → (State.initial p n).Good)

/-- Every step keeps a good state good: the parameters stay legal, memory and the crossbar's set keep their canonical form,
every channel keeps its index, an aligned `descLoadAddr` (10_state R28) and a clear guard (10_state R31). -/
def Obligations.StepKeepsGood : Prop := ∀ s t : State, s.Good → step s = .next t → t.Good

/-- R33: no step creates or destroys a channel or changes its index. -/
def Obligations.ChannelsAreFixed : Prop :=
  ∀ s t : State, step s = .next t → t.numChannels = s.numChannels ∧ ∀ i, (t.chan i).index = (s.chan i).index

/-- Memory changes only where a `Copy` the operation made stores (20_memory R65), whatever the operation and whatever is
nested inside its copies; the BUS log and the diagnostic log only grow. -/
def Obligations.OnlyCopiesStoreToMemory : Prop :=
  ∀ (i : Instr) (s t : State), exec i s = .next t →
    (∃ g, t.diagLog = s.diagLog ++ g) ∧
    ∃ calls, t.busLog = s.busLog ++ calls ∧
      ∀ a, (∀ c ∈ calls, ¬ storesTo c a) → t.readByte a = s.readByte a

/-- With no nested operation (log 8), a signal, a tick, a `FORCE` or `LINKLOAD` write and the engine's procedures leave alone
the seven channel fields that only software and `RESET` change (`enabled`, `requestDisable`, the channel's
`doneInterruptEnable`, the two selectors, `config`, `loop`), and clear no latched completion interrupt (10_state R29, R30,
R34, R35, 60_exceptions R285). -/
def Obligations.EngineLeavesSoftwareOnlyFields : Prop :=
  ∀ (i : Instr) (s t : State), engineOp i = true → s.quiet → exec i s = .next t → ∀ k,
    softwareFields (t.chan k) = softwareFields (s.chan k) ∧
    ((s.chan k).doneInterrupt = true → (t.chan k).doneInterrupt = true)

/-- The bound on the depth of nested operations never decides: under any larger one, every shared operation that can reach a
copy answers the same, the loops over several channels included (log 10). -/
def Obligations.NestingBoundNeverDecides : Prop :=
  ∀ (s : State) (extra : Nat), let more := nested (s.copyEnv.length + extra)
    (∀ i, minorTransfer more i s = minorTransfer s.nest i s ∧ executeActivation more i s = executeActivation s.nest i s ∧
      attemptStart more i s = attemptStart s.nest i s ∧ linkLoadOp more i s = linkLoadOp s.nest i s ∧
      pullTick more i s = pullTick s.nest i s) ∧
    (∀ id level, signal more id level s = signal s.nest id level s) ∧
    (∀ r v, writeReg more r v s = writeReg s.nest r v s) ∧
    (∀ bank r v, writeVia more bank r v s = writeVia s.nest bank r v s) ∧
    ∀ bank offset v, writeAddress more bank offset v s = writeAddress s.nest bank offset v s

/-! ## Reset -/

/-- R310: `RESET` puts every channel back to the zeroed descriptor, false flags, zero words and an unarmed timer, empties the
crossbar's set, leaves memory, the log and every index alone; every register then reads 0 and every output is low. The fields
that no register shows (`descLoadAddr`, `pullArmed`) are written out with the others. -/
def Obligations.ResetClearsEverything : Prop :=
  ∀ s : State, ∃ t, exec .reset s = .next t ∧
    t = { s with ch := t.ch, asserted := [] } ∧ t.numChannels = s.numChannels ∧
    (∀ i, i < s.numChannels → t.chan i = Channel.zero (s.chan i).index ∧
      t.chan i =
        { index := (s.chan i).index, desc := decodeDescriptor (List.replicate 32 0), descLoadAddr := 0
          enabled := false, done := false, requestDisable := false, doneInterrupt := false
          doneInterruptEnable := false, inProgress := false, pullArmed := false
          sourceSelector := 0, signalSelector := 0, config := 0, loop := 0 }) ∧
    (∀ r, s.hasReg r = true → t.readReg r = 0) ∧ (∀ i, t.irqCh i = false) ∧ t.irqWide = false

/-! ## Interrupt outputs -/

/-- R286 and R287: the channel outputs and the wide output. -/
def Obligations.InterruptOutputsFollowTheFlags : Prop :=
  ∀ s : State, (∀ i, s.irqCh i = ((s.chan i).doneInterrupt && (s.chan i).doneInterruptEnable)) ∧
    (s.irqWide = true ↔ ∃ i, i < s.numChannels ∧ s.irqCh i = true)

/-- `updateInterrupts()` completes in every state, recomputes every channel's output and the wide one, drives those that are
wired (60_exceptions R288, R289) and changes nothing else (decision D20; log 11). -/
def Obligations.UpdateInterruptsDrivesWiredOutputs : Prop :=
  ∀ s : State, ∃ w : Word, (∀ i, i < 32 → w.getLsbD i = (decide (i < s.numChannels) && s.irqCh i)) ∧
    exec .updateInterrupts s = .next (s.answer
      (match s.params.irqWiring with
       | .wideOnly => .irq none (some s.irqWide)
       | .perChannelOnly => .irq (some w) none
       | .both => .irq (some w) (some s.irqWide)))

/-! ## Controller-wide registers -/

/-- R233 for `ENABLE`, and the same for the other eight registers: a read completes in every state, returns one bit per
channel, 0 above them and 0 for the write-only registers, and changes nothing (44_register_ops R233 to R244). -/
def Obligations.BankReadsReturnChannelFlags : Prop :=
  ∀ s : State, ∃ en st dn fl ie rq : Word,
    (∀ i, i < 32 →
      en.getLsbD i = (decide (i < s.numChannels) && (s.chan i).enabled) ∧
      st.getLsbD i = (decide (i < s.numChannels) && (s.chan i).inProgress) ∧
      dn.getLsbD i = (decide (i < s.numChannels) && (s.chan i).done) ∧
      fl.getLsbD i = (decide (i < s.numChannels) && (s.chan i).doneInterrupt) ∧
      ie.getLsbD i = (decide (i < s.numChannels) && (s.chan i).doneInterruptEnable) ∧
      rq.getLsbD i = (decide (i < s.numChannels) && (s.chan i).requestDisable)) ∧
    exec .rdEnable s = .next (s.answer (.word en)) ∧ exec .rdStatus s = .next (s.answer (.word st)) ∧
    exec .rdDone s = .next (s.answer (.word dn)) ∧ exec .rdIntflag s = .next (s.answer (.word fl)) ∧
    exec .rdInten s = .next (s.answer (.word ie)) ∧ exec .rdReqdisable s = .next (s.answer (.word rq)) ∧
    exec .rdDisable s = .next (s.answer (.word 0)) ∧ exec .rdForce s = .next (s.answer (.word 0)) ∧
    exec .rdLinkload s = .next (s.answer (.word 0))

/-- R234: `WR DISABLE` clears `enabled` of the channels of its 1 bits and changes nothing else; `RD DISABLE` returns 0. -/
def Obligations.DisableWriteClearsEnabled : Prop :=
  ∀ (s : State) (v : Word), exec .rdDisable s = .next (s.answer (.word 0)) ∧
    ∃ t, exec (.wrDisable v) s = .next t ∧ SameButChannels s t ∧
      ∀ i, i < s.numChannels →
        t.chan i = { s.chan i with enabled := if v.getLsbD i then false else (s.chan i).enabled }

/-- R235: a `STATUS` write is ignored; `RD STATUS` shows the guards, and between operations reads 0. -/
def Obligations.StatusIsReadOnly : Prop :=
  ∀ (s : State) (v : Word), exec (.wrStatus v) s = .next s ∧
    ∃ w : Word, exec .rdStatus s = .next (s.answer (.word w)) ∧
      (∀ i, i < 32 → w.getLsbD i = (decide (i < s.numChannels) && (s.chan i).inProgress)) ∧ (s.Good → w = 0)

/-- `WR DONE` sets every channel's `done` and nothing else (no latch, no start), `WR INTFLAG` every channel's
`doneInterrupt` and nothing else, and the outputs follow (44_register_ops R236, R237, 60_exceptions R285). -/
def Obligations.DoneAndIntflagWritesStoreEveryBit : Prop :=
  ∀ (s : State) (v : Word),
    (∃ t, exec (.wrDone v) s = .next t ∧ SameButChannels s t ∧
      ∀ i, i < s.numChannels → t.chan i = { s.chan i with done := v.getLsbD i } ∧ t.irqCh i = s.irqCh i) ∧
    ∃ t, exec (.wrIntflag v) s = .next t ∧ SameButChannels s t ∧
      ∀ i, i < s.numChannels → t.chan i = { s.chan i with doneInterrupt := v.getLsbD i } ∧
        t.irqCh i = (v.getLsbD i && (s.chan i).doneInterruptEnable)

/-- R238: `WR INTEN` sets every channel's `doneInterruptEnable` and nothing else, the outputs follow; `RD INTEN` returns the
flags. -/
def Obligations.IntenWriteStoresEveryBit : Prop :=
  ∀ (s : State) (v : Word),
    (∃ w : Word, exec .rdInten s = .next (s.answer (.word w)) ∧
      ∀ i, i < 32 → w.getLsbD i = (decide (i < s.numChannels) && (s.chan i).doneInterruptEnable)) ∧
    ∃ t, exec (.wrInten v) s = .next t ∧ SameButChannels s t ∧
      ∀ i, i < s.numChannels → t.chan i = { s.chan i with doneInterruptEnable := v.getLsbD i } ∧
        t.irqCh i = ((s.chan i).doneInterrupt && v.getLsbD i)

/-- `WR ENABLE` when every channel it enables is pull-classified: it sets `enabled`, clears `done`, arms the timer, and moves
nothing; channels already enabled and bits of 0 do nothing (44_register_ops R232, 41_pull_scheduler R152, R157). -/
def Obligations.EnableArmsPullChannels : Prop :=
  ∀ (s : State) (v : Word),
    (∀ i, i < s.numChannels → v.getLsbD i = true → (s.chan i).enabled = false → s.pulls i = true) →
    ∃ t, exec (.wrEnable v) s = .next t ∧ SameButChannels s t ∧
      ∀ i, i < s.numChannels → t.chan i =
        if v.getLsbD i && !(s.chan i).enabled
        then { s.chan i with enabled := true, done := false, pullArmed := true } else s.chan i

/-- `WR ENABLE` stores first (`enabled` set and `done` cleared of the channels of its 1 bits that are disabled) and then
attempts a start of each of those in ascending order, whatever its class, each on the state the one before left. Where that
is one channel whose pair is `Edge`, the whole write is an activation of it, whether or not a signal is asserted; where its
pair is unknown, an activation after the report (44_register_ops R231, R232, 41_pull_scheduler R151, 70_reset R324). -/
def Obligations.EnableServesNewChannelsInTurn : Prop :=
  ∀ (s : State) (v : Word), ∃ t, SameButChannels s t ∧
    (∀ i, i < s.numChannels → t.chan i =
      if v.getLsbD i && !(s.chan i).enabled then { s.chan i with enabled := true, done := false } else s.chan i) ∧
    exec (.wrEnable v) s =
      inTurn (fun i u => exec (.attemptStart i) u) ((s.bitsOf v).filter fun i => !(s.chan i).enabled) t ∧
    ∀ i, i < s.numChannels → v.getLsbD i = true → (s.chan i).enabled = false →
      (∀ k, k < s.numChannels → k ≠ i → v.getLsbD k = true → (s.chan k).enabled = true) →
      ChannelBecomes s t i { s.chan i with enabled := true, done := false } ∧
      (s.boundClass i = some false → exec (.wrEnable v) s = exec (.executeActivation i) t) ∧
      (s.boundClass i = none → exec (.wrEnable v) s = exec (.executeActivation i)
        (t.diag (.unknownPullPair i (s.chan i).sourceSelector (s.chan i).signalSelector)))

/-- `WR FORCE` when every enabled channel of its 1 bits is pull-classified: each of those is armed, and each disabled channel
of its 1 bits is reported, in ascending order, and ignored (44_register_ops R240). -/
def Obligations.ForceArmsOrReports : Prop :=
  ∀ (s : State) (v : Word),
    (∀ i, i < s.numChannels → v.getLsbD i = true → (s.chan i).enabled = true → s.pulls i = true) →
    ∃ t, exec (.wrForce v) s = .next t ∧
      t = { s with ch := t.ch, diagLog := s.diagLog ++ (((List.range s.numChannels).filter fun i =>
        v.getLsbD i && !(s.chan i).enabled).map Diagnostic.forceOnDisabled) } ∧
      t.numChannels = s.numChannels ∧
      ∀ i, i < s.numChannels → t.chan i =
        if v.getLsbD i && (s.chan i).enabled then { s.chan i with pullArmed := true } else s.chan i

/-- `WR FORCE` serves the channels of its 1 bits in ascending order, each on the state the one before left: a start attempt if
the channel is then enabled, else its report. No signal and no `requestDisable` is tested. Where the only channel is enabled,
the whole write is a start attempt of it (44_register_ops R240). -/
def Obligations.ForceServesChannelsInTurn : Prop :=
  ∀ (s : State) (v : Word),
    exec (.wrForce v) s = inTurn (fun i u =>
      if (u.chan i).enabled then exec (.attemptStart i) u else .next (u.diag (.forceOnDisabled i))) (s.bitsOf v) s ∧
    ∀ i, i < s.numChannels → (∀ k, k < s.numChannels → (v.getLsbD k = true ↔ k = i)) → (s.chan i).enabled = true →
      exec (.wrForce v) s = exec (.attemptStart i) s

/-- `WR LINKLOAD` runs the link-load operation of the channels of its 1 bits in ascending order, each on the state the one
before left; of one channel, it is that channel's. When these channels are request-disabled, each loads its next descriptor
and starts nothing (44_register_ops R242, 42_channel_engine R191). -/
def Obligations.LinkloadServesChannelsInTurn : Prop :=
  ∀ (s : State) (v : Word),
    exec (.wrLinkload v) s = inTurn (fun i u => exec (.linkLoadOp i) u) (s.bitsOf v) s ∧
    (∀ i, i < s.numChannels → (∀ k, k < s.numChannels → (v.getLsbD k = true ↔ k = i)) →
      exec (.wrLinkload v) s = exec (.linkLoadOp i) s) ∧
    ((∀ i, i < s.numChannels → v.getLsbD i = true → (s.chan i).requestDisable = true) →
      ∃ t, exec (.wrLinkload v) s = .next t ∧
        t = { s with ch := t.ch, busLog := s.busLog ++
          (s.bitsOf v).map (fun i => BusCall.memRead (linkTarget (s.chan i)) 32) } ∧
        t.numChannels = s.numChannels ∧
        ∀ i, i < s.numChannels → t.chan i =
          if v.getLsbD i
          then { s.chan i with
                 desc := decodeDescriptor (s.readBytes (linkTarget (s.chan i)) 32)
                 descLoadAddr := linkTarget (s.chan i) }
          else s.chan i)

/-- `WR REQDISABLE` stores every flag first, and then, in ascending order, attempts a start of each channel whose flag went from
1 to 0 and whose signal is on when its turn comes, whatever its class and enabled or not. Of one released channel with its
signal on it is that start attempt. Where the released channels with a signal are pull-classified, exactly those are armed
and nothing moves (44_register_ops R231, R244). -/
def Obligations.ReqdisableCatchesUp : Prop :=
  ∀ (s : State) (v : Word), ∃ u, SameButChannels s u ∧
    (∀ i, i < s.numChannels → u.chan i = { s.chan i with requestDisable := v.getLsbD i }) ∧
    exec (.wrReqdisable v) s = inTurn (fun i t => if t.signalOn i then exec (.attemptStart i) t else .next t)
      ((List.range s.numChannels).filter fun i => (s.chan i).requestDisable && !v.getLsbD i) u ∧
    (∀ i, i < s.numChannels → s.signalOn i = true →
      (∀ k, k < s.numChannels → ((s.chan k).requestDisable = true ∧ v.getLsbD k = false ↔ k = i)) →
      exec (.wrReqdisable v) s = exec (.attemptStart i) u) ∧
    ((∀ i, i < s.numChannels → (s.chan i).requestDisable = true → v.getLsbD i = false → s.signalOn i = true →
        s.pulls i = true) →
      ∃ t, exec (.wrReqdisable v) s = .next t ∧ SameButChannels s t ∧
        ∀ i, i < s.numChannels → t.chan i =
          { s.chan i with
            requestDisable := v.getLsbD i
            pullArmed := (s.chan i).pullArmed ||
              ((s.chan i).requestDisable && !v.getLsbD i && s.signalOn i) })

/-! ## Per-channel registers -/

/-- R246: the request-select register, by its two fields, with no side effect. -/
def Obligations.ReqselStoresTwoFields : Prop :=
  ∀ (s : State) (i : Nat) (source : BitVec 6) (signal : BitVec 4), i < s.numChannels →
    exec (.rdReqsel i) s = .next (s.answer (.fields (s.chan i).sourceSelector (s.chan i).signalSelector)) ∧
    ∃ t, exec (.wrReqsel i source signal) s = .next t ∧
      ChannelBecomes s t i { s.chan i with sourceSelector := source, signalSelector := signal } ∧
      exec (.rdReqsel i) t = .next (t.answer (.fields source signal))

/-- R248 and R249: CONFIG and LOOP are opaque words, stored and read back. -/
def Obligations.OpaqueWordsReadBack : Prop :=
  ∀ (s : State) (i : Nat) (v : Word), i < s.numChannels →
    exec (.rdConfig i) s = .next (s.answer (.word (s.chan i).config)) ∧
    exec (.rdLoop i) s = .next (s.answer (.word (s.chan i).loop)) ∧
    (∃ t, exec (.wrConfig i v) s = .next t ∧ ChannelBecomes s t i { s.chan i with config := v } ∧
      exec (.rdConfig i) t = .next (t.answer (.word v))) ∧
    ∃ t, exec (.wrLoop i v) s = .next t ∧ ChannelBecomes s t i { s.chan i with loop := v } ∧
      exec (.rdLoop i) t = .next (t.answer (.word v))

/-- R255, and the same for SRCADDR (44_register_ops R254): the address registers are the live descriptor's, with no side
effect. -/
def Obligations.AddressRegistersReadBack : Prop :=
  ∀ (s : State) (i : Nat) (v : Word), i < s.numChannels →
    exec (.rdSrcaddr i) s = .next (s.answer (.word (s.chan i).desc.sourceAddress)) ∧
    exec (.rdDstaddr i) s = .next (s.answer (.word (s.chan i).desc.destinationAddress)) ∧
    (∃ t, exec (.wrSrcaddr i v) s = .next t ∧
      ChannelBecomes s t i { s.chan i with desc := { (s.chan i).desc with sourceAddress := v } } ∧
      exec (.rdSrcaddr i) t = .next (t.answer (.word v))) ∧
    ∃ t, exec (.wrDstaddr i v) s = .next t ∧
      ChannelBecomes s t i { s.chan i with desc := { (s.chan i).desc with destinationAddress := v } } ∧
      exec (.rdDstaddr i) t = .next (t.answer (.word v))

/-- R256 and R257: a LINK write stores the three link fields and loads nothing; a LINK read returns them at their places, so
the word written reads back. -/
def Obligations.LinkWordReadsBack : Prop :=
  ∀ (s : State) (i : Nat) (v : Word), i < s.numChannels →
    (∃ w : Word, exec (.rdLink i) s = .next (s.answer (.word w)) ∧
      w.getLsbD 0 = decide ((s.chan i).desc.linkMode = .relative) ∧ w.getLsbD 1 = (s.chan i).desc.link ∧
      w.extractLsb' 2 30 = (s.chan i).desc.linkAddress) ∧
    ∃ t, exec (.wrLink i v) s = .next t ∧
      ChannelBecomes s t i { s.chan i with desc :=
        { (s.chan i).desc with
          linkMode := (if v.getLsbD 0 then .relative else .absolute), link := v.getLsbD 1
          linkAddress := v.extractLsb' 2 30 } } ∧
      exec (.rdLink i) t = .next (t.answer (.word v))

/-- R251 and R252: a CTRL write stores the writable fields, each at its bits and by its code table, and leaves the read-only
ones; with `autoRequest` 0 that is all it does, with `autoRequest` 1 the link-load operation follows on the state
with the fields stored. -/
def Obligations.CtrlWriteStoresThenLinkLoads : Prop :=
  ∀ (s : State) (i : Nat) (v : Word), i < s.numChannels →
    ∃ t, ChannelBecomes s t i { s.chan i with desc := ctrlStored v (s.chan i).desc } ∧
      (v.getLsbD 3 = false → exec (.wrCtrl i v) s = .next t) ∧
      (v.getLsbD 3 = true → exec (.wrCtrl i v) s = exec (.linkLoadOp i) t)

/-- A CTRL read returns word `W0` of the live descriptor, and after a CTRL write without `autoRequest` it returns the written
bits 29:4 beside the old bits 31, 30 and 1:0, with bits 3 and 2 zero (44_register_ops R250, R253). -/
def Obligations.CtrlReadShowsLiveFields : Prop :=
  ∀ (s : State) (i : Nat) (v : Word), i < s.numChannels → v.getLsbD 3 = false → ∃ w : Word,
    exec (.rdCtrl i) s = .next (s.answer (.word w)) ∧ w = controlWord (s.chan i).desc ∧
    ∃ t, exec (.wrCtrl i v) s = .next t ∧
      exec (.rdCtrl i) t = .next (t.answer (.word ((v &&& 0x3FFFFFF0) ||| (w &&& 0xC0000003))))

/-! ## Address banks -/

/-- An access at an offset that `REG_OFFSET` gives a register is the access of that register by its own row: a plain write is
its `WR`, and a read through any bank is its `RD` (of `REQSEL`, the word with the two fields at the parameters' places, log
5). In a controller without alias banks the whole 14-bit address is the offset, and every access row is a plain access of the
register there (30_encoding R112, 44_register_ops R230, R265; log 16). -/
def Obligations.MappedOffsetIsItsRegister : Prop :=
  ∀ (s : State) (bank : BitVec 2) (offset : BitVec 12) (r : RegName) (v : Word), s.params.wf s.numChannels →
    (s.params.hasAliasBanks = true → (r, offset.toNat) ∈ s.params.regOffset →
      exec (.wrPlain offset v) s = exec (writeRow s.params r v) s) ∧
    (s.params.hasAliasBanks = false → (r, (bank ++ offset).toNat) ∈ s.params.regOffset →
      (bank = 0 → exec (.wrPlain offset v) s = exec (writeRow s.params r v) s) ∧
      (bank = 1 → exec (.wrSet offset v) s = exec (writeRow s.params r v) s) ∧
      (bank = 2 → exec (.wrClr offset v) s = exec (writeRow s.params r v) s) ∧
      (bank = 3 → exec (.wrTgl offset v) s = exec (writeRow s.params r v) s)) ∧
    ((r, if s.params.hasAliasBanks then offset.toNat else (bank ++ offset).toNat) ∈ s.params.regOffset →
      match r with
      | .reqsel i => ∃ w : Word, exec (.rdAny bank offset) s = .next (s.answer (.word w)) ∧
          w.extractLsb' s.params.reqselSourceLo 6 = (s.chan i).sourceSelector ∧
          w.extractLsb' s.params.reqselSignalLo 4 = (s.chan i).signalSelector
      | _ => exec (.rdAny bank offset) s = exec (readRow r) s)

/-- A write through the Set, Clear or Toggle bank is the register's own write of the combination with what the register reads
(44_register_ops R262, R263, R264). Where the two fields of `REQSEL` lie in the word is the model's parameter (log 5). -/
def Obligations.BankWriteIsPlainWriteOfCombination : Prop :=
  ∀ (s : State) (offset : BitVec 12) (v : Word) (r : RegName), s.maps offset r →
    (s.hasReg r = true → exec (.rdAny 0 offset) s = .next (s.answer (.word (s.readReg r)))) ∧
    exec (.wrSet offset v) s = exec (writeRow s.params r (s.readReg r ||| v)) s ∧
    exec (.wrClr offset v) s = exec (writeRow s.params r (s.readReg r &&& ~~~v)) s ∧
    exec (.wrTgl offset v) s = exec (writeRow s.params r (s.readReg r ^^^ v)) s ∧
    exec (.wrSet offset v) s = exec (.wrPlain offset (s.readReg r ||| v)) s ∧
    exec (.wrClr offset v) s = exec (.wrPlain offset (s.readReg r &&& ~~~v)) s ∧
    exec (.wrTgl offset v) s = exec (.wrPlain offset (s.readReg r ^^^ v)) s

/-- Through the four banks every register whose plain write stores the value comes to hold `V`, `O | V`, `O & ~V` and `O ^ V`,
and nothing else changes. The registers of one channel: the whole words; `CTRL`, its writable bits, with `autoRequest` 0 in
the stored word; `REQSEL`, its two fields (log 5). The flag registers, bit by bit for the channels there are: `DONE`,
`INTFLAG`, `INTEN`; and `REQDISABLE`, where the channels it releases with their signal on are pull-classified and so only
armed (44_register_ops R266, 30_encoding R113). -/
def Obligations.BankWritesStoreTheCombination : Prop :=
  ∀ (s : State) (offset : BitVec 12) (v : Word) (r : RegName), s.maps offset r →
    ∀ p ∈ [(Instr.wrPlain offset v, v), (.wrSet offset v, s.readReg r ||| v), (.wrClr offset v, s.readReg r &&& ~~~v),
      (.wrTgl offset v, s.readReg r ^^^ v)],
    (∀ i, i < s.numChannels → r ∈ [.config i, .loop i, .srcaddr i, .dstaddr i, .link i] →
      ∃ t, exec p.1 s = .next t ∧ ChannelBecomes s t i (stored r p.2 i (s.chan i)) ∧ t.readReg r = p.2) ∧
    (∀ i, i < s.numChannels → r = .ctrl i → p.2.getLsbD 3 = false →
      ∃ t, exec p.1 s = .next t ∧ ChannelBecomes s t i (stored r p.2 i (s.chan i)) ∧
        t.readReg r = (p.2 &&& 0x3FFFFFF0) ||| (s.readReg r &&& 0xC0000003)) ∧
    (∀ i, i < s.numChannels → r = .reqsel i → s.params.wf s.numChannels →
      ∃ t, exec p.1 s = .next t ∧
        ChannelBecomes s t i { s.chan i with
          sourceSelector := p.2.extractLsb' s.params.reqselSourceLo 6
          signalSelector := p.2.extractLsb' s.params.reqselSignalLo 4 } ∧
        t.readReg r = p.2 &&& ((63 <<< s.params.reqselSourceLo) ||| (15 <<< s.params.reqselSignalLo))) ∧
    (r ∈ [.done, .intflag, .inten] →
      ∃ t, exec p.1 s = .next t ∧ SameButChannels s t ∧
        (∀ i, i < s.numChannels → t.chan i = stored r p.2 i (s.chan i)) ∧
        ∀ i, i < 32 → (t.readReg r).getLsbD i = (decide (i < s.numChannels) && p.2.getLsbD i)) ∧
    (r = .reqdisable →
      (∀ i, i < s.numChannels → (s.chan i).requestDisable = true → p.2.getLsbD i = false → s.signalOn i = true →
        s.pulls i = true) →
      ∃ t, exec p.1 s = .next t ∧ SameButChannels s t ∧
        (∀ i, i < s.numChannels → t.chan i = { stored r p.2 i (s.chan i) with
          pullArmed := (s.chan i).pullArmed || ((s.chan i).requestDisable && !p.2.getLsbD i && s.signalOn i) }) ∧
        ∀ i, i < 32 → (t.readReg r).getLsbD i = (decide (i < s.numChannels) && p.2.getLsbD i))

/-- R265: a read through any bank returns what the plain bank returns, does not stop and has no side effect. -/
def Obligations.ReadThroughAnyBank : Prop :=
  ∀ (s : State) (bank : BitVec 2) (offset : BitVec 12) (r : RegName), s.maps offset r → s.hasReg r = true →
    exec (.rdAny bank offset) s = .next (s.answer (.word (s.readReg r))) ∧
    exec (.rdAny bank offset) s = exec (.rdAny 0 offset) s

/-! ## The crossbar -/

/-- R214: deassertion removes the identifier and does nothing else; of a non-member it changes nothing. -/
def Obligations.DeassertionOnlyRemoves : Prop :=
  ∀ (s : State) (id : Word), ∃ t, exec (.sig id false) s = .next t ∧ t = { s with asserted := t.asserted } ∧
    (∀ k, k ∈ t.asserted ↔ k ∈ s.asserted ∧ k ≠ sigIdOfWord id) ∧ (sigIdOfWord id ∉ s.asserted → t = s)

/-- Assertion inserts the identifier and attempts a start of exactly the channels that match, are enabled and are not
request-disabled; where these are pull-classified, it arms them and moves nothing (43_crossbar R210, R213,
41_pull_scheduler R152). -/
def Obligations.AssertionArmsMatchingPullChannels : Prop :=
  ∀ (s : State) (id : Word),
    (∀ i, i < s.numChannels → startable (s.chan i) (sigIdOfWord id) = true → s.pulls i = true) →
    ∃ t, exec (.sig id true) s = .next t ∧ t = { s with ch := t.ch, asserted := t.asserted } ∧
      t.numChannels = s.numChannels ∧ (∀ k, k ∈ t.asserted ↔ k = sigIdOfWord id ∨ k ∈ s.asserted) ∧
      ∀ i, i < s.numChannels → t.chan i =
        { s.chan i with pullArmed := (s.chan i).pullArmed || startable (s.chan i) (sigIdOfWord id) }

/-- Assertion inserts the identifier, then tests every channel in ascending order against the identifier delivered, on the state
the channels before it left, and attempts a start of each that passes, whatever its class and whatever is nested inside its
copies. With no nested operation (log 8), where one channel passes and its pair is `Edge`, the whole notification is an
activation of it; where its pair is unknown, an activation after the report (43_crossbar R210, R213, R216, 41_pull_scheduler
R151, R157). -/
def Obligations.AssertionServesChannelsInTurn : Prop :=
  ∀ (s : State) (id : Word), ∃ u : State, u = { s with asserted := u.asserted } ∧
    (∀ k, k ∈ u.asserted ↔ k = sigIdOfWord id ∨ k ∈ s.asserted) ∧
    exec (.sig id true) s = inTurn (fun i t =>
      if startable (t.chan i) (sigIdOfWord id) then exec (.attemptStart i) t else .next t) (List.range s.numChannels) u ∧
    ∀ i, i < s.numChannels → s.quiet →
      (∀ k, k < s.numChannels → (startable (s.chan k) (sigIdOfWord id) = true ↔ k = i)) →
      (s.boundClass i = some false → exec (.sig id true) s = exec (.executeActivation i) u) ∧
      (s.boundClass i = none → exec (.sig id true) s = exec (.executeActivation i)
        (u.diag (.unknownPullPair i (s.chan i).sourceSelector (s.chan i).signalSelector)))

/-- R217: a channel that is enabled, not request-disabled and ignores single requests is not started by its identifier with the
single flag, whatever the other channels do; and where no other channel passes the scan, the notification with the flag only
inserts the identifier, and without it is a start attempt of the channel. With no nested operation (log 8), which could write
the channel's registers. -/
def Obligations.SingleRequestsAreSuppressed : Prop :=
  ∀ (s : State) (id : Word) (i : Nat), i < s.numChannels → s.quiet → (s.chan i).desc.ignoreSingleRequests = true →
    (s.chan i).enabled = true → (s.chan i).requestDisable = false → (s.chan i).sourceSelector = id.extractLsb' 4 6 →
    (s.chan i).signalSelector = id.extractLsb' 0 4 →
    (id.getLsbD 12 = true → ∀ t, exec (.sig id true) s = .next t → t.chan i = s.chan i) ∧
    ((∀ k, k < s.numChannels → k ≠ i → startable (s.chan k) (sigIdOfWord id) = false) →
      ∃ u : State, u = { s with asserted := u.asserted } ∧
        (∀ k, k ∈ u.asserted ↔ k = sigIdOfWord id ∨ k ∈ s.asserted) ∧
        exec (.sig id true) s = if id.getLsbD 12 then .next u else exec (.attemptStart i) u)

/-- R211 and R215: `matches` compares the selectors and suppresses single requests; `signalIsOn` holds exactly when a member
of the set matches, that is when the plain identifier is in it, or the single one and the channel does not ignore it. -/
def Obligations.SignalIsOnWhenAMemberMatches : Prop :=
  ∀ (s : State) (i : Nat), i < s.numChannels →
    (∀ k : SignalId, exec (.matchesId i k) s = .next (s.answer (.flag (decide
      ((s.chan i).sourceSelector = k.source ∧ (s.chan i).signalSelector = k.signal ∧
        (k.single = false ∨ (s.chan i).desc.ignoreSingleRequests = false)))))) ∧
    ∃ b, exec (.signalIsOn i) s = .next (s.answer (.flag b)) ∧
      (b = true ↔ (⟨(s.chan i).sourceSelector, (s.chan i).signalSelector, false⟩ : SignalId) ∈ s.asserted ∨
        ((⟨(s.chan i).sourceSelector, (s.chan i).signalSelector, true⟩ : SignalId) ∈ s.asserted ∧
          (s.chan i).desc.ignoreSingleRequests = false)) ∧
      (b = true ↔ ∃ k ∈ s.asserted, matchesOf (s.chan i) k = true)

/-! ## The pull scheduler -/

/-- R151: the channel's two selectors are looked up in the table `SHOULD_PULL`. The first entry with that source and signal (the
table has one for each supported pair) gives the class, which `boundClass` and `pulls` name; a pair without an entry is
reported and does not pull. -/
def Obligations.ShouldPullLooksUpTheTable : Prop :=
  ∀ (s : State) (i : Nat), i < s.numChannels →
    (∀ (before after : List PullEntry) (e : PullEntry), s.params.shouldPullTable = before ++ e :: after →
      (∀ x ∈ before, ¬ (x.source = (s.chan i).sourceSelector ∧ x.signal = (s.chan i).signalSelector)) →
      e.source = (s.chan i).sourceSelector → e.signal = (s.chan i).signalSelector →
      s.boundClass i = some e.pulls ∧ s.pulls i = e.pulls ∧
      exec (.shouldPull i) s = .next (s.answer (.flag e.pulls))) ∧
    ((∀ x ∈ s.params.shouldPullTable,
        ¬ (x.source = (s.chan i).sourceSelector ∧ x.signal = (s.chan i).signalSelector)) →
      s.boundClass i = none ∧ s.pulls i = false ∧
      exec (.shouldPull i) s =
        .next ((s.diag (.unknownPullPair i (s.chan i).sourceSelector (s.chan i).signalSelector)).answer (.flag false))) ∧
    (∀ b, s.boundClass i = some b → exec (.shouldPull i) s = .next (s.answer (.flag b))) ∧
    (s.boundClass i = none → exec (.shouldPull i) s =
      .next ((s.diag (.unknownPullPair i (s.chan i).sourceSelector (s.chan i).signalSelector)).answer (.flag false)))

/-- R171: a start attempt arms the timer of a pull-classified channel, and otherwise is an activation (after the report, where
the pair is unknown). -/
def Obligations.AttemptStartArmsOrActivates : Prop :=
  ∀ (s : State) (i : Nat), i < s.numChannels →
    (s.boundClass i = some true → ∃ t, exec (.attemptStart i) s = .next t ∧
      ChannelBecomes s t i { s.chan i with pullArmed := true }) ∧
    (s.boundClass i = some false → exec (.attemptStart i) s = exec (.executeActivation i) s) ∧
    (s.boundClass i = none → exec (.attemptStart i) s = exec (.executeActivation i)
      (s.diag (.unknownPullPair i (s.chan i).sourceSelector (s.chan i).signalSelector)))

/-- R154: a tick of an armed timer activates the channel if it is not request-disabled and its signal is on, and then, on the
state left, disarms the timer if the signal is off or the descriptor is done. -/
def Obligations.TickActivatesThenDisarms : Prop :=
  ∀ (s : State) (i : Nat), i < s.numChannels → (s.chan i).pullArmed = true →
    ((s.chan i).requestDisable = true ∨ s.signalOn i = false → ∃ t, exec (.tick i) s = .next t ∧
      if s.signalOn i = false ∨ (s.chan i).done = true
      then ChannelBecomes s t i { s.chan i with pullArmed := false } else t = s) ∧
    ((s.chan i).requestDisable = false → s.signalOn i = true → ∀ u, exec (.executeActivation i) s = .next u →
      ∃ t, exec (.tick i) s = .next t ∧
        if u.signalOn i = false ∨ (u.chan i).done = true
        then ChannelBecomes u t i { u.chan i with pullArmed := false } else t = u)

/-! ## The channel state machine -/

/-- R186: `setDone` sets `done` and, at that transition only, latches the interrupt if the descriptor's gate is set. -/
def Obligations.SetDoneLatchesOncePerCompletion : Prop :=
  ∀ (s : State) (i : Nat), i < s.numChannels →
    ∃ t, exec (.setDone i) s = .next t ∧ ChannelBecomes s t i
      (if (s.chan i).done then s.chan i
       else { s.chan i with
              done := true
              doneInterrupt := if (s.chan i).desc.doneInterruptEnable then true else (s.chan i).doneInterrupt })

/-- R190: `chainLoad` reads 32 bytes at the link address, relative to the last load address if the mode says so, decodes them
into the live descriptor and records the address. -/
def Obligations.ChainLoadFetchesAndDecodes : Prop :=
  ∀ (s : State) (i : Nat), i < s.numChannels → ∃ (t : State) (addr : Word),
    addr = ((s.chan i).desc.linkAddress.setWidth 32 <<< 2) +
      (if (s.chan i).desc.linkMode = .relative then (s.chan i).descLoadAddr else 0) ∧
    exec (.chainLoad i) s = .next t ∧
    t = { s with ch := t.ch, busLog := s.busLog ++ [.memRead addr 32] } ∧ t.numChannels = s.numChannels ∧
    t.chan i = { s.chan i with
      desc := decodeDescriptor ((List.range 32).map fun j => s.readByte (addr + BitVec.ofNat 32 j))
      descLoadAddr := addr } ∧
    ∀ k, k ≠ i → t.chan k = s.chan k

/-- R191: the link-load operation is a chain-load and then, unless `requestDisable` is set, a start attempt if the loaded
descriptor has `autoRequest` or the bound signal is on; otherwise it ends there. -/
def Obligations.LinkLoadLoadsThenMayStart : Prop :=
  ∀ (s : State) (i : Nat), i < s.numChannels → ∃ u, exec (.chainLoad i) s = .next u ∧
    ((u.chan i).requestDisable = true ∨ ((u.chan i).desc.autoRequest = false ∧ u.signalOn i = false) →
      exec (.linkLoadOp i) s = .next u) ∧
    ((u.chan i).requestDisable = false → ((u.chan i).desc.autoRequest = true ∨ u.signalOn i = true) →
      exec (.linkLoadOp i) s = exec (.attemptStart i) u)

/-- The units of a minor transfer: all that remain in `All` mode, else the block's units but no more than remain; at least one,
at most what remains, and at most 8192 bytes. With the tables: the units of every block code (the reserved ones have none),
the bytes of every unit size, the factor of every increment (30_encoding R98, R100, R101, R105, R107, R108, 42_channel_engine
R185). -/
def Obligations.UnitsOfAMinorTransfer : Prop :=
  (∀ (d : TransferDescriptor) (n w : Nat), transferUnits d = some n → unitBytes d.unitSize = some w →
    (d.requestMode = .all → n = remaining d) ∧
    (d.requestMode = .block → ∃ b, blockUnits d.blockSize (remaining d) = some b ∧ n = min (remaining d) b) ∧
    1 ≤ n ∧ n ≤ remaining d ∧ remaining d ≤ 2048 ∧ n * w ≤ 8192) ∧
  (∀ d : TransferDescriptor, remaining d = d.transferCount.toNat + 1 ∧
    (d.requestMode = .all → transferUnits d = some (remaining d)) ∧
    (d.requestMode = .block →
      (∀ e ∈ blockUnitsTable, d.blockSize = e.1 → transferUnits d = some (min (remaining d) e.2)) ∧
      (d.blockSize = .all → transferUnits d = some (remaining d)) ∧
      (d.blockSize = .reservedBlock6 ∨ d.blockSize = .reservedBlock8 → transferUnits d = none))) ∧
  (unitBytes .byte = some 1 ∧ unitBytes .halfWord = some 2 ∧ unitBytes .word = some 4 ∧ unitBytes .reservedSize = none) ∧
  ∀ w, addressStep .x1 w = w ∧ addressStep .x2 w = 2 * w ∧ addressStep .x4 w = 4 * w ∧ addressStep .none w = 0

/-- R182, with the unsupported structure kinds of 42_channel_engine R181: a minor transfer of an unsupported configuration
appends its diagnostic and changes nothing else; no copy is made and `done` is not set. -/
def Obligations.UnsupportedTransferOnlyReports : Prop :=
  ∀ (s : State) (i : Nat) (g : Diagnostic), i < s.numChannels →
    ((s.chan i).desc.structureKind ≠ .transfer ∧ g = .unsupportedKind i (s.chan i).desc.structureKind ∨
      (s.chan i).desc.structureKind = .transfer ∧ (s.chan i).desc.unitSize = .reservedSize ∧
        g = .unsupportedUnitSize i ∨
      (s.chan i).desc.structureKind = .transfer ∧ (s.chan i).desc.unitSize ≠ .reservedSize ∧
        (s.chan i).desc.requestMode = .block ∧
        ((s.chan i).desc.blockSize = .reservedBlock6 ∨ (s.chan i).desc.blockSize = .reservedBlock8) ∧
        g = .unsupportedBlockSize i (s.chan i).desc.blockSize) →
    exec (.minorTransfer i) s = .next (s.diag g)

/-- A minor transfer of a supported descriptor, with no nested operation (log 8): it completes with one `Copy` of `n` units at
the live addresses. In `Block` mode the count and the two addresses advance and `done` comes exactly when nothing remains; in
`All` mode they keep their values and `done` always comes. Memory outside the destination units, the other channels and
everything else are unchanged (42_channel_engine R180, R183, R184, R186; the copy is 20_memory R67, log 7).

With operations nested in the copy after `k` of its units, or at its end (20_memory R77; the script is log 8): that many units
are moved and nothing else has changed (the guard is as it was); then the operations run in order, each by its own row on the
live state; then the other units are moved, and last the channel is updated. Its count and addresses come from the descriptor
before the copy, `setDone` acts on the live `done` and gate, and everything else the operations wrote stays
(42_channel_engine R180, 70_reset R320 (d), (e), decision D25). Where an operation stops, the transfer stops so. -/
def Obligations.MinorTransferCopiesAndUpdates : Prop :=
  (∀ (s : State) (i n w : Nat), i < s.numChannels → s.quiet → (s.chan i).desc.structureKind = .transfer →
    unitBytes (s.chan i).desc.unitSize = some w → transferUnits (s.chan i).desc = some n →
    let c := s.chan i
    let d := c.desc
    let sInc := addressStep d.sourceIncrement w
    let dInc := addressStep d.destinationIncrement w
    let src := d.sourceAddress + BitVec.ofNat 32 (sInc * n)
    let dst := d.destinationAddress + BitVec.ofNat 32 (dInc * n)
    let latched := c.doneInterrupt || (!c.done && d.doneInterruptEnable)
    let call := BusCall.copy d.sourceAddress d.destinationAddress (n * w) w w sInc dInc src dst
    ∃ t, exec (.minorTransfer i) s = .next t ∧
      t = { s with ch := t.ch, mem := t.mem, busLog := s.busLog ++ [call] } ∧ t.numChannels = s.numChannels ∧
      (∀ k, k ≠ i → t.chan k = s.chan k) ∧
      (∀ a, ¬ storesTo call a → t.readByte a = s.readByte a) ∧
      (d.requestMode = .all → t.chan i = { c with done := true, doneInterrupt := latched }) ∧
      (d.requestMode = .block → remaining d = n → t.chan i =
        { c with
          done := true, doneInterrupt := latched
          desc := { d with transferCount := 0, sourceAddress := src, destinationAddress := dst } }) ∧
      (d.requestMode = .block → n < remaining d → t.chan i =
        { c with
          desc := { d with
            transferCount := BitVec.ofNat 11 (remaining d - n - 1), sourceAddress := src, destinationAddress := dst } })) ∧
  ∀ (s : State) (i n w k : Nat) (ops : List EnvOp) (script : List (List CopyEvent)), i < s.numChannels →
    s.supports i n w → s.copyEnv = (ops.map fun op => ⟨k, op⟩) :: script → s.mem.wf →
    let d := (s.chan i).desc
    let m := min k n
    let sInc := addressStep d.sourceIncrement w
    let dInc := addressStep d.destinationIncrement w
    let src := fun j => d.sourceAddress + BitVec.ofNat 32 (sInc * j)
    let dst := fun j => d.destinationAddress + BitVec.ofNat 32 (dInc * j)
    let call := BusCall.copy d.sourceAddress d.destinationAddress (n * w) w w sInc dInc (src n) (dst n)
    ∃ u : State, u = { s with mem := u.mem, busLog := s.busLog ++ [call], copyEnv := script } ∧
      (∀ a, u.readByte a = unitsMoved s.readByte d.sourceAddress d.destinationAddress sInc dInc w m a) ∧
      ((∀ v, envActs ops u ≠ .next v) → exec (.minorTransfer i) s = envActs ops u) ∧
      ∀ v, envActs ops u = .next v → ∃ t, exec (.minorTransfer i) s = .next t ∧
        t = { v with ch := t.ch, mem := t.mem } ∧ t.numChannels = s.numChannels ∧
        (∀ a, t.readByte a = unitsMoved v.readByte (src m) (dst m) sInc dInc w (n - m) a) ∧
        (∀ j, j ≠ i → t.chan j = v.chan j) ∧ t.chan i = transferred d n w (v.chan i)

/-- The bytes a minor transfer moves, with no nested operation (log 8), for every increment: memory becomes what moving the
units one by one in ascending order makes of it, overlapping buffers included. Where the destination units are apart from the
source units, every source byte keeps its value, and every destination unit holds the source unit's bytes (with the
increment `None`, the one destination unit holds the last source unit's) (20_memory R67, 42_channel_engine R180; the
byte-copy engine is closed by the reference semantics, log 7). -/
def Obligations.MinorTransferMovesABuffer : Prop :=
  ∀ (s : State) (i n w : Nat), i < s.numChannels → s.quiet → s.mem.wf → s.supports i n w →
    let d := (s.chan i).desc
    let sInc := addressStep d.sourceIncrement w
    let dInc := addressStep d.destinationIncrement w
    let src := fun k b : Nat => d.sourceAddress + BitVec.ofNat 32 (sInc * k) + BitVec.ofNat 32 b
    let dst := fun k b : Nat => d.destinationAddress + BitVec.ofNat 32 (dInc * k) + BitVec.ofNat 32 b
    ∃ t, exec (.minorTransfer i) s = .next t ∧
      (∀ a, t.readByte a = unitsMoved s.readByte d.sourceAddress d.destinationAddress sInc dInc w n a) ∧
      ((∀ j k b e, j < n → k < n → b < w → e < w → dst j b ≠ src k e) → ∀ k b, k < n → b < w →
        t.readByte (src k b) = s.readByte (src k b) ∧
        (d.destinationIncrement ≠ .none → t.readByte (dst k b) = s.readByte (src k b)) ∧
        (d.destinationIncrement = .none → t.readByte (dst 0 b) = s.readByte (src (n - 1) b)))

/-- An activation of a channel that is done, or inside an activation, is ignored and not queued (42_channel_engine R175 step
1, 70_reset R325). -/
def Obligations.DroppedActivationChangesNothing : Prop :=
  ∀ (s : State) (i : Nat), i < s.numChannels → ((s.chan i).inProgress = true ∨ (s.chan i).done = true) →
    exec (.executeActivation i) s = .next s

/-- With no nested operation (log 8), an activation of a supported descriptor performs exactly one minor transfer where that
leaves more than nothing and no request is pending (`Block` mode), and where it completes a descriptor that does not link
(the last block, or `All` mode), whatever the signal. Where it completes a descriptor that links, the successor is loaded, and
if that has no `autoRequest` and no request is pending, the activation ends with it loaded and `done` cleared
(42_channel_engine R175 corner case a, R176, R177).

Whatever is nested in its copies, an activation sets the guard and makes one minor transfer. On the state that leaves, and after
the chain-load if the descriptor is done and links, it goes on as an activation of the channel or ends with the guard clear,
by the loop condition on the live state (42_channel_engine R175, R177, 70_reset R320 (a), (e)). -/
def Obligations.ActivationOfOneTransfer : Prop :=
  (∀ (s : State) (i n w : Nat), i < s.numChannels → s.quiet → (s.chan i).inProgress = false → (s.chan i).done = false →
    s.supports i n w →
    ((s.chan i).desc.requestMode = .block → n < remaining (s.chan i).desc → s.signalOn i = false →
      exec (.executeActivation i) s = exec (.minorTransfer i) s) ∧
    ((s.chan i).desc.requestMode = .all ∨ remaining (s.chan i).desc = n →
      ((s.chan i).desc.link = false → exec (.executeActivation i) s = exec (.minorTransfer i) s) ∧
      ((s.chan i).desc.link = true → ∃ t u v, exec (.minorTransfer i) s = .next t ∧ exec (.chainLoad i) t = .next u ∧
        ChannelBecomes u v i { u.chan i with done := false } ∧
        ((v.chan i).desc.autoRequest = false → v.signalOn i = false → exec (.executeActivation i) s = .next v)))) ∧
  ∀ (s g : State) (i : Nat), i < s.numChannels → (s.chan i).inProgress = false → (s.chan i).done = false →
    ChannelBecomes s g i { s.chan i with inProgress := true } →
    ((∀ t, exec (.minorTransfer i) g ≠ .next t) → exec (.executeActivation i) s = exec (.minorTransfer i) g) ∧
    ∀ t, exec (.minorTransfer i) g = .next t →
      (((t.chan i).done = false ∨ (t.chan i).desc.link = false) → ∃ v, ChannelBecomes t v i { t.chan i with inProgress := false } ∧
        if (t.chan i).done = false ∧ t.signalOn i = true
        then ∀ r, exec (.executeActivation i) s = .next r → exec (.executeActivation i) v = .next r
        else exec (.executeActivation i) s = .next v) ∧
      ((t.chan i).done = true → (t.chan i).desc.link = true → ∃ u v, exec (.chainLoad i) t = .next u ∧
        ChannelBecomes u v i { u.chan i with done := false, inProgress := false } ∧
        if (v.chan i).desc.autoRequest = true ∨ v.signalOn i = true
        then ∀ r, exec (.executeActivation i) s = .next r → exec (.executeActivation i) v = .next r
        else exec (.executeActivation i) s = .next v)

/-- The document's concrete scenario for every descriptor: with no nested operation (log 8), an activation of a supported
descriptor that does not link runs it to its end where nothing makes it wait (its signal is held on, or it is in `All` mode,
or one block is left). `DescriptorMoved` says what is left: one `Copy` for each block at the live addresses, in order, every
byte of memory, count and addresses, `done`, the latch. A tick of its armed timer with the signal on and `requestDisable`
clear does the same and disarms it (42_channel_engine R175, R180, R183, R184, R186, R195, test vector S1, 41_pull_scheduler
R154; the copies are 20_memory R67, log 7). -/
def Obligations.HeldRequestRunsToCompletion : Prop :=
  ∀ (s : State) (i n w : Nat), s.finishes i n w → (s.chan i).desc.link = false →
    ∃ t, exec (.executeActivation i) s = .next t ∧ DescriptorMoved s t i n w ∧
      ((s.chan i).pullArmed = true → (s.chan i).requestDisable = false → s.signalOn i = true →
        ∃ v, exec (.tick i) s = .next v ∧ ChannelBecomes t v i { t.chan i with pullArmed := false })

/-- Chaining inside an activation, with no nested operation (log 8): where nothing makes the live descriptor wait and it links,
the activation moves all of it (its interrupt latched), loads the successor from where the link then points and clears
`done`, keeping the latch. If the successor has no `autoRequest` and no request is pending, it ends there. Otherwise it goes
on as an activation of the successor: it answers what that answers, and where nothing makes a successor that does not link
wait, it runs the successor to its end too (42_channel_engine R175 step 3b, R176, R177, R190, R195 (c); what a descriptor's
move leaves is R180, R183, R184, R186, and its bytes are the reference copy's, 20_memory R67, log 7). -/
def Obligations.ChainedDescriptorRunsInTheSameActivation : Prop :=
  ∀ (s : State) (i n w : Nat), s.finishes i n w → (s.chan i).desc.link = true →
    ∃ t u v, DescriptorMoved s t i n w ∧ exec (.chainLoad i) t = .next u ∧
      ChannelBecomes u v i { u.chan i with done := false } ∧
      (v.chan i).doneInterrupt = ((s.chan i).doneInterrupt || (s.chan i).desc.doneInterruptEnable) ∧
      ((v.chan i).desc.autoRequest = false → v.signalOn i = false → exec (.executeActivation i) s = .next v) ∧
      ((v.chan i).desc.autoRequest = true ∨ v.signalOn i = true →
        (∀ r, exec (.executeActivation i) s = .next r → exec (.executeActivation i) v = .next r) ∧
        ∀ m b, v.finishes i m b → (v.chan i).desc.link = false →
          ∃ r, exec (.executeActivation i) s = .next r ∧ DescriptorMoved v r i m b ∧
            (r.chan i).done = true ∧ (r.chan i).desc.link = false)

/-- What holds when an activation returns, whatever was nested inside its copies: the guard is clear, and either the last
descriptor completed and does not link, or it is not done and the bound signal is off (42_channel_engine R178). -/
def Obligations.ActivationEndsDoneOrUnrequested : Prop :=
  ∀ (s t : State) (i : Nat), (s.chan i).inProgress = false → (s.chan i).done = false →
    exec (.executeActivation i) s = .next t →
    (t.chan i).inProgress = false ∧
    ((t.chan i).done = true ∧ (t.chan i).desc.link = false ∨ (t.chan i).done = false ∧ t.signalOn i = false)

/-- An activation of an unsupported configuration whose signal is on never ends: it has no next state (42_channel_engine R181,
70_reset R322 case a). That the model says so by the fault `hang` is decision D30 (log 9). -/
def Obligations.UnsupportedRequestedActivationHangs : Prop :=
  ∀ (s : State) (i : Nat), i < s.numChannels → (s.chan i).inProgress = false → (s.chan i).done = false →
    s.signalOn i = true →
    ((s.chan i).desc.structureKind ≠ .transfer ∨ (s.chan i).desc.unitSize = .reservedSize ∨
      (s.chan i).desc.requestMode = .block ∧
        ((s.chan i).desc.blockSize = .reservedBlock6 ∨ (s.chan i).desc.blockSize = .reservedBlock8)) →
    exec (.executeActivation i) s = .fault .hang

/-! ## What the model stops on -/

/-- The forms an operation stops on by name: the expiry of a timer that is not armed, which cannot happen (41_pull_scheduler
R154; log 15); an offset that `REG_OFFSET` maps to no register (30_encoding R112; log 16); a channel of `NUM_CHANNELS` or
more (log 16). -/
def Obligations.FormsThatStopByName : Prop :=
  ∀ (s : State) (i : Nat),
    (i < s.numChannels → (s.chan i).pullArmed = false → exec (.tick i) s = .refused .timerNotArmed) ∧
    (∀ (bank : BitVec 2) (offset : BitVec 12) (v : Word), s.params.hasAliasBanks = true →
      (∀ e ∈ s.params.regOffset, e.2 ≠ offset.toNat) →
      exec (.rdAny bank offset) s = .refused .unmappedOffset ∧ exec (.wrPlain offset v) s = .refused .unmappedOffset ∧
      exec (.wrSet offset v) s = .refused .unmappedOffset ∧ exec (.wrClr offset v) s = .refused .unmappedOffset ∧
      exec (.wrTgl offset v) s = .refused .unmappedOffset) ∧
    (s.numChannels ≤ i → ∀ (v : Word) (source : BitVec 6) (signal : BitVec 4) (k : SignalId),
      ∀ op ∈ [Instr.tick i, .wrReqsel i source signal, .rdReqsel i, .wrConfig i v, .rdConfig i, .wrLoop i v, .rdLoop i,
        .wrCtrl i v, .rdCtrl i, .wrSrcaddr i v, .rdSrcaddr i, .wrDstaddr i v, .rdDstaddr i, .wrLink i v, .rdLink i,
        .shouldPull i, .attemptStart i, .executeActivation i, .minorTransfer i, .setDone i, .chainLoad i,
        .linkLoadOp i, .matchesId i k, .signalIsOn i],
      exec op s = .refused .noSuchChannel)
end

