-- ==== Sys2Proof/Laws/State.lean ====
section
/-! SUPPORT. One lemma per field per state update, and what the updates do to the channel array. -/

namespace Sys2Proof.Machine

/-! ### `State.updateChan` -/

@[simp] theorem State.updateChan_params (s : State) (i : Nat) (f : Channel → Channel) : (s.updateChan i f).params = s.params := rfl
@[simp] theorem State.updateChan_ch (s : State) (i : Nat) (f : Channel → Channel) : (s.updateChan i f).ch = s.ch.modify i f := rfl
@[simp] theorem State.updateChan_asserted (s : State) (i : Nat) (f : Channel → Channel) : (s.updateChan i f).asserted = s.asserted := rfl
@[simp] theorem State.updateChan_mem (s : State) (i : Nat) (f : Channel → Channel) : (s.updateChan i f).mem = s.mem := rfl
@[simp] theorem State.updateChan_diagLog (s : State) (i : Nat) (f : Channel → Channel) : (s.updateChan i f).diagLog = s.diagLog := rfl
@[simp] theorem State.updateChan_busLog (s : State) (i : Nat) (f : Channel → Channel) : (s.updateChan i f).busLog = s.busLog := rfl
@[simp] theorem State.updateChan_result (s : State) (i : Nat) (f : Channel → Channel) : (s.updateChan i f).result = s.result := rfl
@[simp] theorem State.updateChan_copyEnv (s : State) (i : Nat) (f : Channel → Channel) : (s.updateChan i f).copyEnv = s.copyEnv := rfl
@[simp] theorem State.updateChan_pending (s : State) (i : Nat) (f : Channel → Channel) : (s.updateChan i f).pending = s.pending := rfl

/-! ### `State.updateDesc` -/

@[simp] theorem State.updateDesc_params (s : State) (i : Nat) (f : TransferDescriptor → TransferDescriptor) : (s.updateDesc i f).params = s.params := rfl
@[simp] theorem State.updateDesc_asserted (s : State) (i : Nat) (f : TransferDescriptor → TransferDescriptor) : (s.updateDesc i f).asserted = s.asserted := rfl
@[simp] theorem State.updateDesc_mem (s : State) (i : Nat) (f : TransferDescriptor → TransferDescriptor) : (s.updateDesc i f).mem = s.mem := rfl
@[simp] theorem State.updateDesc_diagLog (s : State) (i : Nat) (f : TransferDescriptor → TransferDescriptor) : (s.updateDesc i f).diagLog = s.diagLog := rfl
@[simp] theorem State.updateDesc_busLog (s : State) (i : Nat) (f : TransferDescriptor → TransferDescriptor) : (s.updateDesc i f).busLog = s.busLog := rfl
@[simp] theorem State.updateDesc_result (s : State) (i : Nat) (f : TransferDescriptor → TransferDescriptor) : (s.updateDesc i f).result = s.result := rfl
@[simp] theorem State.updateDesc_copyEnv (s : State) (i : Nat) (f : TransferDescriptor → TransferDescriptor) : (s.updateDesc i f).copyEnv = s.copyEnv := rfl
@[simp] theorem State.updateDesc_pending (s : State) (i : Nat) (f : TransferDescriptor → TransferDescriptor) : (s.updateDesc i f).pending = s.pending := rfl

/-! ### `State.mapChan` -/

@[simp] theorem State.mapChan_params (s : State) (f : Nat → Channel → Channel) : (s.mapChan f).params = s.params := rfl
@[simp] theorem State.mapChan_ch (s : State) (f : Nat → Channel → Channel) : (s.mapChan f).ch = s.ch.mapIdx f := rfl
@[simp] theorem State.mapChan_asserted (s : State) (f : Nat → Channel → Channel) : (s.mapChan f).asserted = s.asserted := rfl
@[simp] theorem State.mapChan_mem (s : State) (f : Nat → Channel → Channel) : (s.mapChan f).mem = s.mem := rfl
@[simp] theorem State.mapChan_diagLog (s : State) (f : Nat → Channel → Channel) : (s.mapChan f).diagLog = s.diagLog := rfl
@[simp] theorem State.mapChan_busLog (s : State) (f : Nat → Channel → Channel) : (s.mapChan f).busLog = s.busLog := rfl
@[simp] theorem State.mapChan_result (s : State) (f : Nat → Channel → Channel) : (s.mapChan f).result = s.result := rfl
@[simp] theorem State.mapChan_copyEnv (s : State) (f : Nat → Channel → Channel) : (s.mapChan f).copyEnv = s.copyEnv := rfl
@[simp] theorem State.mapChan_pending (s : State) (f : Nat → Channel → Channel) : (s.mapChan f).pending = s.pending := rfl

/-! ### `State.writeByte` -/

@[simp] theorem State.writeByte_params (s : State) (a : Word) (b : Byte) : (s.writeByte a b).params = s.params := rfl
@[simp] theorem State.writeByte_ch (s : State) (a : Word) (b : Byte) : (s.writeByte a b).ch = s.ch := rfl
@[simp] theorem State.writeByte_asserted (s : State) (a : Word) (b : Byte) : (s.writeByte a b).asserted = s.asserted := rfl
@[simp] theorem State.writeByte_mem (s : State) (a : Word) (b : Byte) : (s.writeByte a b).mem = Memory.write s.mem a.toNat b := rfl
@[simp] theorem State.writeByte_diagLog (s : State) (a : Word) (b : Byte) : (s.writeByte a b).diagLog = s.diagLog := rfl
@[simp] theorem State.writeByte_busLog (s : State) (a : Word) (b : Byte) : (s.writeByte a b).busLog = s.busLog := rfl
@[simp] theorem State.writeByte_result (s : State) (a : Word) (b : Byte) : (s.writeByte a b).result = s.result := rfl
@[simp] theorem State.writeByte_copyEnv (s : State) (a : Word) (b : Byte) : (s.writeByte a b).copyEnv = s.copyEnv := rfl
@[simp] theorem State.writeByte_pending (s : State) (a : Word) (b : Byte) : (s.writeByte a b).pending = s.pending := rfl

/-! ### `State.diag` -/

@[simp] theorem State.diag_params (s : State) (g : Diagnostic) : (s.diag g).params = s.params := rfl
@[simp] theorem State.diag_ch (s : State) (g : Diagnostic) : (s.diag g).ch = s.ch := rfl
@[simp] theorem State.diag_asserted (s : State) (g : Diagnostic) : (s.diag g).asserted = s.asserted := rfl
@[simp] theorem State.diag_mem (s : State) (g : Diagnostic) : (s.diag g).mem = s.mem := rfl
@[simp] theorem State.diag_diagLog (s : State) (g : Diagnostic) : (s.diag g).diagLog = s.diagLog ++ [g] := rfl
@[simp] theorem State.diag_busLog (s : State) (g : Diagnostic) : (s.diag g).busLog = s.busLog := rfl
@[simp] theorem State.diag_result (s : State) (g : Diagnostic) : (s.diag g).result = s.result := rfl
@[simp] theorem State.diag_copyEnv (s : State) (g : Diagnostic) : (s.diag g).copyEnv = s.copyEnv := rfl
@[simp] theorem State.diag_pending (s : State) (g : Diagnostic) : (s.diag g).pending = s.pending := rfl

/-! ### `State.busCall` -/

@[simp] theorem State.busCall_params (s : State) (c : BusCall) : (s.busCall c).params = s.params := rfl
@[simp] theorem State.busCall_ch (s : State) (c : BusCall) : (s.busCall c).ch = s.ch := rfl
@[simp] theorem State.busCall_asserted (s : State) (c : BusCall) : (s.busCall c).asserted = s.asserted := rfl
@[simp] theorem State.busCall_mem (s : State) (c : BusCall) : (s.busCall c).mem = s.mem := rfl
@[simp] theorem State.busCall_diagLog (s : State) (c : BusCall) : (s.busCall c).diagLog = s.diagLog := rfl
@[simp] theorem State.busCall_busLog (s : State) (c : BusCall) : (s.busCall c).busLog = s.busLog ++ [c] := rfl
@[simp] theorem State.busCall_result (s : State) (c : BusCall) : (s.busCall c).result = s.result := rfl
@[simp] theorem State.busCall_copyEnv (s : State) (c : BusCall) : (s.busCall c).copyEnv = s.copyEnv := rfl
@[simp] theorem State.busCall_pending (s : State) (c : BusCall) : (s.busCall c).pending = s.pending := rfl

/-! ### `State.answer` -/

@[simp] theorem State.answer_params (s : State) (r : Result) : (s.answer r).params = s.params := rfl
@[simp] theorem State.answer_ch (s : State) (r : Result) : (s.answer r).ch = s.ch := rfl
@[simp] theorem State.answer_asserted (s : State) (r : Result) : (s.answer r).asserted = s.asserted := rfl
@[simp] theorem State.answer_mem (s : State) (r : Result) : (s.answer r).mem = s.mem := rfl
@[simp] theorem State.answer_diagLog (s : State) (r : Result) : (s.answer r).diagLog = s.diagLog := rfl
@[simp] theorem State.answer_busLog (s : State) (r : Result) : (s.answer r).busLog = s.busLog := rfl
@[simp] theorem State.answer_result (s : State) (r : Result) : (s.answer r).result = r := rfl
@[simp] theorem State.answer_copyEnv (s : State) (r : Result) : (s.answer r).copyEnv = s.copyEnv := rfl
@[simp] theorem State.answer_pending (s : State) (r : Result) : (s.answer r).pending = s.pending := rfl

/-! ### `State.complete` -/

@[simp] theorem State.complete_params (s : State) (i : Nat) : (s.complete i).params = s.params := rfl
@[simp] theorem State.complete_asserted (s : State) (i : Nat) : (s.complete i).asserted = s.asserted := rfl
@[simp] theorem State.complete_mem (s : State) (i : Nat) : (s.complete i).mem = s.mem := rfl
@[simp] theorem State.complete_diagLog (s : State) (i : Nat) : (s.complete i).diagLog = s.diagLog := rfl
@[simp] theorem State.complete_busLog (s : State) (i : Nat) : (s.complete i).busLog = s.busLog := rfl
@[simp] theorem State.complete_result (s : State) (i : Nat) : (s.complete i).result = s.result := rfl
@[simp] theorem State.complete_copyEnv (s : State) (i : Nat) : (s.complete i).copyEnv = s.copyEnv := rfl
@[simp] theorem State.complete_pending (s : State) (i : Nat) : (s.complete i).pending = s.pending := rfl

/-! ### `State.chainLoad` -/

@[simp] theorem State.chainLoad_params (s : State) (i : Nat) : (s.chainLoad i).params = s.params := rfl
@[simp] theorem State.chainLoad_asserted (s : State) (i : Nat) : (s.chainLoad i).asserted = s.asserted := rfl
@[simp] theorem State.chainLoad_mem (s : State) (i : Nat) : (s.chainLoad i).mem = s.mem := rfl
@[simp] theorem State.chainLoad_diagLog (s : State) (i : Nat) : (s.chainLoad i).diagLog = s.diagLog := rfl
@[simp] theorem State.chainLoad_busLog (s : State) (i : Nat) : (s.chainLoad i).busLog = s.busLog ++ [.memRead (linkTarget (s.chan i)) 32] := rfl
@[simp] theorem State.chainLoad_result (s : State) (i : Nat) : (s.chainLoad i).result = s.result := rfl
@[simp] theorem State.chainLoad_copyEnv (s : State) (i : Nat) : (s.chainLoad i).copyEnv = s.copyEnv := rfl
@[simp] theorem State.chainLoad_pending (s : State) (i : Nat) : (s.chainLoad i).pending = s.pending := rfl

/-! ### `State.chainOn` -/

@[simp] theorem State.chainOn_params (s : State) (i : Nat) : (s.chainOn i).params = s.params := rfl
@[simp] theorem State.chainOn_asserted (s : State) (i : Nat) : (s.chainOn i).asserted = s.asserted := rfl
@[simp] theorem State.chainOn_mem (s : State) (i : Nat) : (s.chainOn i).mem = s.mem := rfl
@[simp] theorem State.chainOn_diagLog (s : State) (i : Nat) : (s.chainOn i).diagLog = s.diagLog := rfl
@[simp] theorem State.chainOn_busLog (s : State) (i : Nat) : (s.chainOn i).busLog = s.busLog ++ [.memRead (linkTarget (s.chan i)) 32] := rfl
@[simp] theorem State.chainOn_result (s : State) (i : Nat) : (s.chainOn i).result = s.result := rfl
@[simp] theorem State.chainOn_copyEnv (s : State) (i : Nat) : (s.chainOn i).copyEnv = s.copyEnv := rfl
@[simp] theorem State.chainOn_pending (s : State) (i : Nat) : (s.chainOn i).pending = s.pending := rfl

/-! ### `State.guard` -/

@[simp] theorem State.guard_params (s : State) (i : Nat) (b : Bool) : (s.guard i b).params = s.params := rfl
@[simp] theorem State.guard_asserted (s : State) (i : Nat) (b : Bool) : (s.guard i b).asserted = s.asserted := rfl
@[simp] theorem State.guard_mem (s : State) (i : Nat) (b : Bool) : (s.guard i b).mem = s.mem := rfl
@[simp] theorem State.guard_diagLog (s : State) (i : Nat) (b : Bool) : (s.guard i b).diagLog = s.diagLog := rfl
@[simp] theorem State.guard_busLog (s : State) (i : Nat) (b : Bool) : (s.guard i b).busLog = s.busLog := rfl
@[simp] theorem State.guard_result (s : State) (i : Nat) (b : Bool) : (s.guard i b).result = s.result := rfl
@[simp] theorem State.guard_copyEnv (s : State) (i : Nat) (b : Bool) : (s.guard i b).copyEnv = s.copyEnv := rfl
@[simp] theorem State.guard_pending (s : State) (i : Nat) (b : Bool) : (s.guard i b).pending = s.pending := rfl

/-! ### `State.armPull` -/

@[simp] theorem State.armPull_params (s : State) (i : Nat) (b : Bool) : (s.armPull i b).params = s.params := rfl
@[simp] theorem State.armPull_asserted (s : State) (i : Nat) (b : Bool) : (s.armPull i b).asserted = s.asserted := rfl
@[simp] theorem State.armPull_mem (s : State) (i : Nat) (b : Bool) : (s.armPull i b).mem = s.mem := rfl
@[simp] theorem State.armPull_diagLog (s : State) (i : Nat) (b : Bool) : (s.armPull i b).diagLog = s.diagLog := rfl
@[simp] theorem State.armPull_busLog (s : State) (i : Nat) (b : Bool) : (s.armPull i b).busLog = s.busLog := rfl
@[simp] theorem State.armPull_result (s : State) (i : Nat) (b : Bool) : (s.armPull i b).result = s.result := rfl
@[simp] theorem State.armPull_copyEnv (s : State) (i : Nat) (b : Bool) : (s.armPull i b).copyEnv = s.copyEnv := rfl
@[simp] theorem State.armPull_pending (s : State) (i : Nat) (b : Bool) : (s.armPull i b).pending = s.pending := rfl

/-! ### `State.beginCopy` and `State.chained` -/

@[simp] theorem State.beginCopy_params (s : State) (c : BusCall) : (s.beginCopy c).params = s.params := rfl
@[simp] theorem State.beginCopy_ch (s : State) (c : BusCall) : (s.beginCopy c).ch = s.ch := rfl
@[simp] theorem State.beginCopy_asserted (s : State) (c : BusCall) : (s.beginCopy c).asserted = s.asserted := rfl
@[simp] theorem State.beginCopy_mem (s : State) (c : BusCall) : (s.beginCopy c).mem = s.mem := rfl
@[simp] theorem State.beginCopy_diagLog (s : State) (c : BusCall) : (s.beginCopy c).diagLog = s.diagLog := rfl
@[simp] theorem State.beginCopy_result (s : State) (c : BusCall) : (s.beginCopy c).result = s.result := rfl
@[simp] theorem State.beginCopy_pending (s : State) (c : BusCall) : (s.beginCopy c).pending = s.pending := rfl
@[simp] theorem State.beginCopy_busLog (s : State) (c : BusCall) : (s.beginCopy c).busLog = s.busLog ++ [c] := rfl
@[simp] theorem State.beginCopy_copyEnv (s : State) (c : BusCall) : (s.beginCopy c).copyEnv = s.copyEnv.tail := rfl
@[simp] theorem State.chained_params (s : State) (i : Nat) : (s.chained i).params = s.params := by
  unfold State.chained; split <;> rfl
@[simp] theorem State.chained_asserted (s : State) (i : Nat) : (s.chained i).asserted = s.asserted := by
  unfold State.chained; split <;> rfl
@[simp] theorem State.chained_mem (s : State) (i : Nat) : (s.chained i).mem = s.mem := by
  unfold State.chained; split <;> rfl
@[simp] theorem State.chained_diagLog (s : State) (i : Nat) : (s.chained i).diagLog = s.diagLog := by
  unfold State.chained; split <;> rfl
@[simp] theorem State.chained_result (s : State) (i : Nat) : (s.chained i).result = s.result := by
  unfold State.chained; split <;> rfl
@[simp] theorem State.chained_copyEnv (s : State) (i : Nat) : (s.chained i).copyEnv = s.copyEnv := by
  unfold State.chained; split <;> rfl
@[simp] theorem State.chained_pending (s : State) (i : Nat) : (s.chained i).pending = s.pending := by
  unfold State.chained; split <;> rfl

/-! ### Stores of several bytes -/

@[simp] theorem State.writeBytes_params (s : State) (a : Word) (b : List Byte) : (s.writeBytes a b).params = s.params := by
  induction b generalizing s a with
  | nil => rfl
  | cons x rest ih => exact ih (s.writeByte a x) (a + 1)

@[simp] theorem State.writeBytes_ch (s : State) (a : Word) (b : List Byte) : (s.writeBytes a b).ch = s.ch := by
  induction b generalizing s a with
  | nil => rfl
  | cons x rest ih => exact ih (s.writeByte a x) (a + 1)

@[simp] theorem State.writeBytes_asserted (s : State) (a : Word) (b : List Byte) : (s.writeBytes a b).asserted = s.asserted := by
  induction b generalizing s a with
  | nil => rfl
  | cons x rest ih => exact ih (s.writeByte a x) (a + 1)

@[simp] theorem State.writeBytes_diagLog (s : State) (a : Word) (b : List Byte) : (s.writeBytes a b).diagLog = s.diagLog := by
  induction b generalizing s a with
  | nil => rfl
  | cons x rest ih => exact ih (s.writeByte a x) (a + 1)

@[simp] theorem State.writeBytes_busLog (s : State) (a : Word) (b : List Byte) : (s.writeBytes a b).busLog = s.busLog := by
  induction b generalizing s a with
  | nil => rfl
  | cons x rest ih => exact ih (s.writeByte a x) (a + 1)

@[simp] theorem State.writeBytes_result (s : State) (a : Word) (b : List Byte) : (s.writeBytes a b).result = s.result := by
  induction b generalizing s a with
  | nil => rfl
  | cons x rest ih => exact ih (s.writeByte a x) (a + 1)

@[simp] theorem State.writeBytes_copyEnv (s : State) (a : Word) (b : List Byte) : (s.writeBytes a b).copyEnv = s.copyEnv := by
  induction b generalizing s a with
  | nil => rfl
  | cons x rest ih => exact ih (s.writeByte a x) (a + 1)

@[simp] theorem State.writeBytes_pending (s : State) (a : Word) (b : List Byte) : (s.writeBytes a b).pending = s.pending := by
  induction b generalizing s a with
  | nil => rfl
  | cons x rest ih => exact ih (s.writeByte a x) (a + 1)

@[simp] theorem State.moveUnit_params (s : State) (a b : Word) (w : Nat) : (s.moveUnit a b w).params = s.params :=
  State.writeBytes_params s b _
@[simp] theorem State.moveUnit_ch (s : State) (a b : Word) (w : Nat) : (s.moveUnit a b w).ch = s.ch :=
  State.writeBytes_ch s b _
@[simp] theorem State.moveUnit_asserted (s : State) (a b : Word) (w : Nat) : (s.moveUnit a b w).asserted = s.asserted :=
  State.writeBytes_asserted s b _
@[simp] theorem State.moveUnit_diagLog (s : State) (a b : Word) (w : Nat) : (s.moveUnit a b w).diagLog = s.diagLog :=
  State.writeBytes_diagLog s b _
@[simp] theorem State.moveUnit_busLog (s : State) (a b : Word) (w : Nat) : (s.moveUnit a b w).busLog = s.busLog :=
  State.writeBytes_busLog s b _
@[simp] theorem State.moveUnit_result (s : State) (a b : Word) (w : Nat) : (s.moveUnit a b w).result = s.result :=
  State.writeBytes_result s b _
@[simp] theorem State.moveUnit_copyEnv (s : State) (a b : Word) (w : Nat) : (s.moveUnit a b w).copyEnv = s.copyEnv :=
  State.writeBytes_copyEnv s b _
@[simp] theorem State.moveUnit_pending (s : State) (a b : Word) (w : Nat) : (s.moveUnit a b w).pending = s.pending :=
  State.writeBytes_pending s b _

/-! ### Updates that may do nothing -/

@[simp] theorem State.reportPull_params (s : State) (i : Nat) : (s.reportPull i).params = s.params := by
  unfold State.reportPull; split <;> rfl
@[simp] theorem State.reportPull_ch (s : State) (i : Nat) : (s.reportPull i).ch = s.ch := by
  unfold State.reportPull; split <;> rfl
@[simp] theorem State.reportPull_asserted (s : State) (i : Nat) : (s.reportPull i).asserted = s.asserted := by
  unfold State.reportPull; split <;> rfl
@[simp] theorem State.reportPull_mem (s : State) (i : Nat) : (s.reportPull i).mem = s.mem := by
  unfold State.reportPull; split <;> rfl
@[simp] theorem State.reportPull_busLog (s : State) (i : Nat) : (s.reportPull i).busLog = s.busLog := by
  unfold State.reportPull; split <;> rfl
@[simp] theorem State.reportPull_result (s : State) (i : Nat) : (s.reportPull i).result = s.result := by
  unfold State.reportPull; split <;> rfl
@[simp] theorem State.reportPull_copyEnv (s : State) (i : Nat) : (s.reportPull i).copyEnv = s.copyEnv := by
  unfold State.reportPull; split <;> rfl
@[simp] theorem State.reportPull_pending (s : State) (i : Nat) : (s.reportPull i).pending = s.pending := by
  unfold State.reportPull; split <;> rfl
@[simp] theorem State.disarmTest_params (s : State) (i : Nat) : (s.disarmTest i).params = s.params := by
  unfold State.disarmTest; split <;> rfl
@[simp] theorem State.disarmTest_asserted (s : State) (i : Nat) : (s.disarmTest i).asserted = s.asserted := by
  unfold State.disarmTest; split <;> rfl
@[simp] theorem State.disarmTest_mem (s : State) (i : Nat) : (s.disarmTest i).mem = s.mem := by
  unfold State.disarmTest; split <;> rfl
@[simp] theorem State.disarmTest_diagLog (s : State) (i : Nat) : (s.disarmTest i).diagLog = s.diagLog := by
  unfold State.disarmTest; split <;> rfl
@[simp] theorem State.disarmTest_busLog (s : State) (i : Nat) : (s.disarmTest i).busLog = s.busLog := by
  unfold State.disarmTest; split <;> rfl
@[simp] theorem State.disarmTest_result (s : State) (i : Nat) : (s.disarmTest i).result = s.result := by
  unfold State.disarmTest; split <;> rfl
@[simp] theorem State.disarmTest_copyEnv (s : State) (i : Nat) : (s.disarmTest i).copyEnv = s.copyEnv := by
  unfold State.disarmTest; split <;> rfl
@[simp] theorem State.disarmTest_pending (s : State) (i : Nat) : (s.disarmTest i).pending = s.pending := by
  unfold State.disarmTest; split <;> rfl
@[simp] theorem afterCopy_params (i : Nat) (d : TransferDescriptor) (p : TransferPlan) (s : State) :
    (afterCopy i d p s).params = s.params := by
  unfold afterCopy; cases d.requestMode
  · simp only []; split <;> rfl
  · rfl
@[simp] theorem afterCopy_asserted (i : Nat) (d : TransferDescriptor) (p : TransferPlan) (s : State) :
    (afterCopy i d p s).asserted = s.asserted := by
  unfold afterCopy; cases d.requestMode
  · simp only []; split <;> rfl
  · rfl
@[simp] theorem afterCopy_mem (i : Nat) (d : TransferDescriptor) (p : TransferPlan) (s : State) :
    (afterCopy i d p s).mem = s.mem := by
  unfold afterCopy; cases d.requestMode
  · simp only []; split <;> rfl
  · rfl
@[simp] theorem afterCopy_diagLog (i : Nat) (d : TransferDescriptor) (p : TransferPlan) (s : State) :
    (afterCopy i d p s).diagLog = s.diagLog := by
  unfold afterCopy; cases d.requestMode
  · simp only []; split <;> rfl
  · rfl
@[simp] theorem afterCopy_busLog (i : Nat) (d : TransferDescriptor) (p : TransferPlan) (s : State) :
    (afterCopy i d p s).busLog = s.busLog := by
  unfold afterCopy; cases d.requestMode
  · simp only []; split <;> rfl
  · rfl
@[simp] theorem afterCopy_result (i : Nat) (d : TransferDescriptor) (p : TransferPlan) (s : State) :
    (afterCopy i d p s).result = s.result := by
  unfold afterCopy; cases d.requestMode
  · simp only []; split <;> rfl
  · rfl
@[simp] theorem afterCopy_copyEnv (i : Nat) (d : TransferDescriptor) (p : TransferPlan) (s : State) :
    (afterCopy i d p s).copyEnv = s.copyEnv := by
  unfold afterCopy; cases d.requestMode
  · simp only []; split <;> rfl
  · rfl
@[simp] theorem afterCopy_pending (i : Nat) (d : TransferDescriptor) (p : TransferPlan) (s : State) :
    (afterCopy i d p s).pending = s.pending := by
  unfold afterCopy; cases d.requestMode
  · simp only []; split <;> rfl
  · rfl

/-! ### The channel array -/

theorem State.chan_of_ch (s t : State) (h : s.ch = t.ch) (i : Nat) : s.chan i = t.chan i := by
  simp [State.chan, h]

theorem State.numChannels_of_ch (s t : State) (h : s.ch = t.ch) : s.numChannels = t.numChannels := by
  simp [State.numChannels, h]

@[simp] theorem State.numChannels_updateChan (s : State) (i : Nat) (f : Channel → Channel) :
    (s.updateChan i f).numChannels = s.numChannels := by
  simp [State.numChannels]

@[simp] theorem State.numChannels_updateDesc (s : State) (i : Nat) (f : TransferDescriptor → TransferDescriptor) :
    (s.updateDesc i f).numChannels = s.numChannels := by
  simp [State.updateDesc]

@[simp] theorem State.numChannels_mapChan (s : State) (f : Nat → Channel → Channel) :
    (s.mapChan f).numChannels = s.numChannels := by
  simp [State.numChannels]

/-- Reading a channel after an update of that channel. -/
theorem State.chan_updateChan_self (s : State) (i : Nat) (f : Channel → Channel) (h : i < s.numChannels) :
    (s.updateChan i f).chan i = f (s.chan i) := by
  have h' : i < s.ch.length := h
  simp [State.chan, List.getD_eq_getElem?_getD, h']

/-- Reading a channel after an update of another. -/
theorem State.chan_updateChan_other (s : State) (i k : Nat) (f : Channel → Channel) (h : k ≠ i) :
    (s.updateChan i f).chan k = s.chan k := by
  have h' : i ≠ k := fun e => h e.symm
  simp [State.chan, List.getD_eq_getElem?_getD, h']

/-- An update of a channel that does not exist changes nothing. -/
theorem State.updateChan_absent (s : State) (i : Nat) (f : Channel → Channel) (h : s.numChannels ≤ i) :
    s.updateChan i f = s := by
  have h' : s.ch.length ≤ i := h
  have e : s.ch.modify i f = s.ch := by
    apply List.ext_getElem?
    intro j
    rw [List.getElem?_modify]
    by_cases hj : i = j
    · subst hj; simp [List.getElem?_eq_none h']
    · simp [hj]
  cases s; simp only [State.updateChan] at *; rw [e]

/-- Reading any channel after an update: it is the old one or, for the channel itself, `f` of it. -/
theorem State.chan_updateChan (s : State) (i k : Nat) (f : Channel → Channel) :
    (s.updateChan i f).chan k = if k = i ∧ i < s.numChannels then f (s.chan k) else s.chan k := by
  by_cases h : i < s.numChannels
  · by_cases hk : k = i
    · subst hk; simp [h, State.chan_updateChan_self]
    · simp [hk, State.chan_updateChan_other]
  · rw [State.updateChan_absent s i f (by omega)]; simp [h]

/-- Reading a channel after an update of all of them. -/
theorem State.chan_mapChan (s : State) (f : Nat → Channel → Channel) (k : Nat) (h : k < s.numChannels) :
    (s.mapChan f).chan k = f k (s.chan k) := by
  have h' : k < s.ch.length := h
  simp [State.chan, List.getD_eq_getElem?_getD, h']

/-- A property of the fields of every channel that every update keeps is kept. -/
theorem State.chan_updateChan_rel {P : Channel → Channel → Prop} (s : State) (i k : Nat) (f : Channel → Channel)
    (refl : ∀ c, P c c) (step : P (s.chan i) (f (s.chan i))) : P (s.chan k) ((s.updateChan i f).chan k) := by
  rw [State.chan_updateChan]
  split
  next h => rw [h.1]; exact step
  next => exact refl _

/-- Two states with the same channels, memory and the rest are one state. -/
theorem State.ext_fields (s t : State) (h1 : s.params = t.params) (h2 : s.ch = t.ch) (h3 : s.asserted = t.asserted)
    (h4 : s.mem = t.mem) (h5 : s.diagLog = t.diagLog) (h6 : s.busLog = t.busLog) (h7 : s.result = t.result)
    (h8 : s.copyEnv = t.copyEnv) (h9 : s.pending = t.pending) : s = t := by
  cases s; cases t; simp_all

/-- Two updates of one channel are one. -/
theorem State.updateChan_updateChan (s : State) (i : Nat) (f g : Channel → Channel) :
    (s.updateChan i f).updateChan i g = s.updateChan i (fun c => g (f c)) := by
  apply State.ext_fields <;> try rfl
  simp only [State.updateChan_ch]
  apply List.ext_getElem?
  intro j
  simp only [List.getElem?_modify]
  cases s.ch[j]? with
  | none => rfl
  | some c => by_cases h : i = j <;> simp [h]

end Sys2Proof.Machine
end

