-- ==== Sys2Proof/Laws/Codec.lean ====
section
/-! SUPPORT. Every tag function is a bijection with its code function (40_codec R130, R131), and words and their bytes. -/

namespace Sys2Proof.Machine

@[simp] theorem kindTag_kindCode (k : StructureKind) : kindTag (kindCode k) = k := by cases k <;> rfl
@[simp] theorem blockTag_blockCode (b : BlockSize) : blockTag (blockCode b) = b := by cases b <;> rfl
@[simp] theorem modeTag_modeCode (m : RequestMode) : modeTag (modeCode m) = m := by cases m <;> rfl
@[simp] theorem incTag_incCode (i : Increment) : incTag (incCode i) = i := by cases i <;> rfl
@[simp] theorem sizeTag_sizeCode (u : UnitSize) : sizeTag (sizeCode u) = u := by cases u <;> rfl
@[simp] theorem addrTag_addrCode (a : AddressingMode) : addrTag (addrCode a) = a := by cases a <;> rfl

@[simp] theorem kindCode_kindTag : ∀ c : BitVec 2, kindCode (kindTag c) = c := by decide
@[simp] theorem blockCode_blockTag : ∀ c : BitVec 4, blockCode (blockTag c) = c := by decide
@[simp] theorem incCode_incTag : ∀ c : BitVec 2, incCode (incTag c) = c := by decide
@[simp] theorem sizeCode_sizeTag : ∀ c : BitVec 2, sizeCode (sizeTag c) = c := by decide
@[simp] theorem modeCode_modeTag (b : Bool) : modeCode (modeTag b) = b := by cases b <;> rfl
@[simp] theorem addrCode_addrTag (b : Bool) : addrCode (addrTag b) = b := by cases b <;> rfl

/-- The word of a word's bytes is the word. -/
theorem wordOfBytes_bytesOfWord (w : Word) :
    wordOfBytes (w.extractLsb' 0 8) (w.extractLsb' 8 8) (w.extractLsb' 16 8) (w.extractLsb' 24 8) = w := by
  unfold wordOfBytes
  apply BitVec.eq_of_getLsbD_eq
  intro i hi
  simp only [BitVec.getLsbD_append, BitVec.getLsbD_extractLsb']
  split
  · simp_all
  · split
    · have : 8 + (i - 8) = i := by omega
      simp_all
    · split
      · have : 16 + (i - 8 - 8) = i := by omega
        simp_all
      · have h1 : 24 + (i - 8 - 8 - 8) = i := by omega
        have h2 : i - 8 - 8 - 8 < 8 := by omega
        simp [h1, h2]

@[simp] theorem bytesOfWord_length (w : Word) : (bytesOfWord w).length = 4 := rfl

end Sys2Proof.Machine
end

