-- ==== Sys2Proof/Laws/Ids.lean ====
section
/-! SUPPORT. The crossbar's set: membership after an insertion or a removal, and its canonical form. -/

namespace Sys2Proof.Machine

/-- The number of a concatenation. -/
theorem toNat_append_arith {n m : Nat} (x : BitVec n) (y : BitVec m) :
    (x ++ y).toNat = x.toNat * 2 ^ m + y.toNat := by
  rw [BitVec.toNat_append, ← Nat.shiftLeft_add_eq_or_of_lt y.isLt, Nat.shiftLeft_eq]

/-- The number of a triple, in arithmetic. -/
theorem sigKey_eq (k : SignalId) : sigKey k = k.single.toNat * 4096 + k.source.toNat * 16 + k.signal.toNat := by
  obtain ⟨s, g, f⟩ := k
  unfold sigKey wordOfSigId
  simp only [toNat_append_arith]
  cases f <;> simp [Nat.add_mul]

/-- Distinct identifiers have distinct keys. -/
theorem sigKey_injective (a b : SignalId) (h : sigKey a = sigKey b) : a = b := by
  obtain ⟨s, g, f⟩ := a
  obtain ⟨s', g', f'⟩ := b
  rw [sigKey_eq, sigKey_eq] at h
  have h1 := s.isLt
  have h2 := g.isLt
  have h3 := s'.isLt
  have h4 := g'.isLt
  simp only at h
  have hs : s.toNat = s'.toNat ∧ g.toNat = g'.toNat ∧ f = f' := by
    cases f <;> cases f' <;> simp at h ⊢ <;> omega
  obtain ⟨e1, e2, e3⟩ := hs
  rw [BitVec.eq_of_toNat_eq e1, BitVec.eq_of_toNat_eq e2, e3]

/-- Membership after an insertion. -/
theorem mem_insertId (k x : SignalId) (set : List SignalId) : x ∈ insertId k set ↔ x = k ∨ x ∈ set := by
  induction set with
  | nil => simp [insertId]
  | cons y rest ih =>
    simp only [insertId]
    split
    · simp
    · split
      next h => subst h; simp
      next h => simp only [List.mem_cons, ih]; tauto

/-- Membership after a removal. -/
theorem mem_eraseId (k x : SignalId) (set : List SignalId) : x ∈ eraseId k set ↔ x ∈ set ∧ x ≠ k := by
  simp [eraseId]

theorem idsWf_insertId (k : SignalId) (set : List SignalId) (h : idsWf set) : idsWf (insertId k set) := by
  induction set with
  | nil => simp [insertId]
  | cons y rest ih =>
    have hp := List.pairwise_cons.mp h
    simp only [insertId]
    split
    next hk =>
      refine List.pairwise_cons.mpr ⟨fun x hx => ?_, h⟩
      rcases List.mem_cons.mp hx with rfl | hx
      · exact hk
      · exact Nat.lt_trans hk (hp.1 x hx)
    next hk =>
      split
      · exact h
      next hne =>
        refine List.pairwise_cons.mpr ⟨fun x hx => ?_, ih hp.2⟩
        rcases (mem_insertId k x rest).mp hx with rfl | hx
        · have hk' : sigKey x ≠ sigKey y := fun e => hne (sigKey_injective _ _ e)
          omega
        · exact hp.1 x hx

theorem idsWf_eraseId (k : SignalId) (set : List SignalId) (h : idsWf set) : idsWf (eraseId k set) :=
  List.Pairwise.filter _ h

end Sys2Proof.Machine
end

