-- ==== Sys2Proof/Laws/Memory.lean ====
section
/-! SUPPORT. Memory: what a store changes, and that every memory operation keeps the canonical form. -/

namespace Sys2Proof.Machine

/-- Below its first address a canonical memory lists nothing. -/
theorem Memory.read_below (m : Memory) (a : Nat) (h : ∀ c ∈ m, a < c.1) : Memory.read m a = Memory.unlisted := by
  induction m with
  | nil => rfl
  | cons c rest ih =>
    obtain ⟨x, b⟩ := c
    have hx : a < x := h (x, b) (by simp)
    have hne : x ≠ a := by omega
    simp only [Memory.read, if_neg hne]
    exact ih fun c hc => h c (by simp [hc])

/-- Reading the address just written gives the byte written. -/
theorem Memory.read_write_self (m : Memory) (a : Nat) (b : Byte) (h : m.wf) : (Memory.write m a b).read a = b := by
  induction m with
  | nil =>
    by_cases hb : b = Memory.unlisted <;> simp [Memory.write, Memory.read, hb]
  | cons c rest ih =>
    obtain ⟨x, y⟩ := c
    have hrest : Memory.wf rest := ⟨(List.pairwise_cons.mp h.1).2, fun c hc => h.2 c (by simp [hc])⟩
    have hlt : ∀ c ∈ rest, x < c.1 := fun c hc => (List.pairwise_cons.mp h.1).1 c hc
    by_cases h1 : a < x
    · by_cases hb : b = Memory.unlisted
      · have hne : x ≠ a := by omega
        simp only [Memory.write, if_pos h1, if_pos hb, Memory.read, if_neg hne]
        rw [Memory.read_below rest a fun c hc => by have := hlt c hc; omega, hb]
      · simp [Memory.write, h1, hb, Memory.read]
    · by_cases h2 : a = x
      · subst h2
        by_cases hb : b = Memory.unlisted
        · simp only [Memory.write, if_neg h1, if_true, if_pos hb]
          rw [Memory.read_below rest a hlt, hb]
        · simp [Memory.write, hb, Memory.read]
      · have hne : x ≠ a := fun e => h2 e.symm
        simp only [Memory.write, if_neg h1, if_neg h2, Memory.read, if_neg hne]
        exact ih hrest

/-- A store leaves every other address alone. -/
theorem Memory.read_write_other (m : Memory) (a k : Nat) (b : Byte) (hk : k ≠ a) :
    (Memory.write m a b).read k = m.read k := by
  induction m with
  | nil =>
    by_cases hb : b = Memory.unlisted <;> simp [Memory.write, Memory.read, hb, Ne.symm hk]
  | cons c rest ih =>
    obtain ⟨x, y⟩ := c
    simp only [Memory.write]
    by_cases h1 : a < x
    · by_cases hb : b = Memory.unlisted <;> simp [h1, hb, Memory.read, Ne.symm hk]
    · by_cases h2 : a = x
      · subst h2
        by_cases hb : b = Memory.unlisted <;> simp [hb, Memory.read, Ne.symm hk]
      · simp only [if_neg h1, if_neg h2, Memory.read]
        rw [ih]

/-- What a written memory lists. -/
theorem Memory.mem_write {m : Memory} {a : Nat} {b : Byte} {c : Host.Cell} (h : c ∈ Memory.write m a b) :
    c ∈ m ∨ (c = (a, b) ∧ b ≠ Memory.unlisted) := by
  induction m with
  | nil =>
    by_cases hb : b = Memory.unlisted
    · simp [Memory.write, hb] at h
    · simp only [Memory.write, if_neg hb, List.mem_singleton] at h
      exact .inr ⟨h, hb⟩
  | cons d rest ih =>
    obtain ⟨x, y⟩ := d
    simp only [Memory.write] at h
    by_cases h1 : a < x
    · by_cases hb : b = Memory.unlisted
      · rw [if_pos h1, if_pos hb] at h; exact .inl h
      · rw [if_pos h1, if_neg hb] at h
        rcases List.mem_cons.mp h with h | h
        · exact .inr ⟨h, hb⟩
        · exact .inl h
    · by_cases h2 : a = x
      · by_cases hb : b = Memory.unlisted
        · rw [if_neg h1, if_pos h2, if_pos hb] at h; exact .inl (List.mem_cons_of_mem _ h)
        · rw [if_neg h1, if_pos h2, if_neg hb] at h
          rcases List.mem_cons.mp h with h | h
          · exact .inr ⟨h, hb⟩
          · exact .inl (List.mem_cons_of_mem _ h)
      · rw [if_neg h1, if_neg h2] at h
        rcases List.mem_cons.mp h with h | h
        · exact .inl (by simp [h])
        · exact (ih h).imp (List.mem_cons_of_mem _) id

/-- A store keeps the canonical form. -/
theorem Memory.wf_write (m : Memory) (a : Nat) (b : Byte) (h : m.wf) (ha : a < 2 ^ 32) : (Memory.write m a b).wf := by
  refine ⟨?_, fun c hc => ?_⟩
  · induction m with
    | nil => by_cases hb : b = Memory.unlisted <;> simp [Memory.write, hb]
    | cons c rest ih =>
      obtain ⟨x, y⟩ := c
      have hp := List.pairwise_cons.mp h.1
      have hrest : Memory.wf rest := ⟨hp.2, fun c hc => h.2 c (by simp [hc])⟩
      simp only [Memory.write]
      by_cases h1 : a < x
      · by_cases hb : b = Memory.unlisted
        · simp only [if_pos h1, if_pos hb]; exact h.1
        · simp only [if_pos h1, if_neg hb]
          refine List.pairwise_cons.mpr ⟨fun c hc => ?_, h.1⟩
          rcases List.mem_cons.mp hc with rfl | hc
          · exact h1
          · exact Nat.lt_trans h1 (hp.1 c hc)
      · by_cases h2 : a = x
        · by_cases hb : b = Memory.unlisted
          · simp only [if_neg h1, if_pos h2, if_pos hb]; exact hp.2
          · simp only [if_neg h1, if_pos h2, if_neg hb]
            refine List.pairwise_cons.mpr ⟨fun c hc => ?_, hp.2⟩
            have := hp.1 c hc; simp only at this ⊢; omega
        · simp only [if_neg h1, if_neg h2]
          refine List.pairwise_cons.mpr ⟨fun c hc => ?_, ih hrest⟩
          rcases Memory.mem_write hc with hc | ⟨rfl, _⟩
          · exact hp.1 c hc
          · simp only; omega
  · rcases Memory.mem_write hc with hc | ⟨rfl, hb⟩
    · exact h.2 c hc
    · exact ⟨ha, hb⟩

/-! ### The bus view -/

theorem State.readByte_writeByte_self (s : State) (a : Word) (b : Byte) (h : s.mem.wf) :
    (s.writeByte a b).readByte a = b := Memory.read_write_self s.mem a.toNat b h

theorem State.readByte_writeByte_other (s : State) (a k : Word) (b : Byte) (hk : k ≠ a) :
    (s.writeByte a b).readByte k = s.readByte k :=
  Memory.read_write_other s.mem a.toNat k.toNat b fun e => hk (BitVec.eq_of_toNat_eq e)

theorem State.wf_writeByte (s : State) (a : Word) (b : Byte) (h : s.mem.wf) : (s.writeByte a b).mem.wf :=
  Memory.wf_write s.mem a.toNat b h a.isLt

theorem State.wf_writeBytes (s : State) (a : Word) (b : List Byte) (h : s.mem.wf) : (s.writeBytes a b).mem.wf := by
  induction b generalizing s a with
  | nil => exact h
  | cons x rest ih => exact ih _ _ (s.wf_writeByte a x h)

/-- A store of several bytes changes only addresses `a + j` with `j` below their number. -/
theorem State.readByte_writeBytes_other (s : State) (a k : Word) (b : List Byte)
    (hk : ∀ j, j < b.length → k ≠ a + BitVec.ofNat 32 j) : (s.writeBytes a b).readByte k = s.readByte k := by
  induction b generalizing s a with
  | nil => rfl
  | cons x rest ih =>
    have h0 : k ≠ a := by simpa using hk 0 (by simp)
    have e := ih (s.writeByte a x) (a + 1) fun j hj => by
      have := hk (j + 1) (by simpa using hj)
      rw [BitVec.add_assoc]
      intro h; apply this; rw [h]; congr 1; apply BitVec.eq_of_toNat_eq; simp [Nat.add_comm]
    exact e.trans (s.readByte_writeByte_other a k x h0)

/-- A unit moves only the bytes of its destination. -/
theorem State.readByte_moveUnit_other (s : State) (src dst k : Word) (width : Nat)
    (hk : ∀ j, j < width → k ≠ dst + BitVec.ofNat 32 j) : (s.moveUnit src dst width).readByte k = s.readByte k := by
  have hl : ∀ (n : Nat) (a : Word), (s.readBytes a n).length = n := by
    intro n; induction n with
    | zero => intro a; rfl
    | succ n ih => intro a; simp [State.readBytes, ih]
  exact s.readByte_writeBytes_other dst k _ fun j hj => hk j (by simpa [hl] using hj)

theorem State.wf_moveUnit (s : State) (src dst : Word) (width : Nat) (h : s.mem.wf) :
    (s.moveUnit src dst width).mem.wf := s.wf_writeBytes dst _ h

/-- The bytes read, one by one. -/
theorem State.readBytes_getD (s : State) (a : Word) (n j : Nat) (h : j < n) :
    (s.readBytes a n).getD j 0 = s.readByte (a + BitVec.ofNat 32 j) := by
  induction n generalizing a j with
  | zero => omega
  | succ n ih =>
    cases j with
    | zero => simp [State.readBytes]
    | succ j =>
      simp only [State.readBytes, List.getD_cons_succ]
      rw [ih (a + 1) j (by omega), BitVec.add_assoc]
      congr 2; apply BitVec.eq_of_toNat_eq; simp [Nat.add_comm]

@[simp] theorem State.readBytes_length (s : State) (a : Word) (n : Nat) : (s.readBytes a n).length = n := by
  induction n generalizing a with
  | zero => rfl
  | succ n ih => simp [State.readBytes, ih]

/-- What a read of bytes depends on. -/
theorem State.readBytes_of_mem (s t : State) (h : s.mem = t.mem) (a : Word) (n : Nat) :
    s.readBytes a n = t.readBytes a n := by
  induction n generalizing a with
  | zero => rfl
  | succ n ih => simp [State.readBytes, State.readByte, h, ih]

end Sys2Proof.Machine
end

