-- ==== Sys2Proof/Laws/Engine.lean ====
section
/-! SUPPORT. What the shared operations can do: inversion of sequencing, and the lifting principle. A relation that the elementary
updates of the engine satisfy (`Lifts`) holds between the states before and after every operation, nested ones included, so
that an invariant is proved by checking the updates once. -/

namespace Sys2Proof.Machine

/-! ### Sequencing -/

@[simp] theorem andThen_next (s : State) (f : State → Out) : andThen (.next s) f = f s := rfl
@[simp] theorem andThen_fault (r : Fault) (f : State → Out) : andThen (.fault r) f = .fault r := rfl
@[simp] theorem andThen_refused (r : Refusal) (f : State → Out) : andThen (.refused r) f = .refused r := rfl

/-- A sequence answers a next state exactly when both parts do. -/
theorem andThen_eq_next {o : Out} {f : State → Out} {t : State} :
    andThen o f = .next t ↔ ∃ s, o = .next s ∧ f s = .next t := by
  cases o with
  | next s => exact ⟨fun h => ⟨s, rfl, h⟩, fun ⟨_, e, h⟩ => by cases e; exact h⟩
  | fault r => simp
  | refused r => simp

/-- Sequencing is associative. -/
theorem andThen_assoc (o : Out) (f g : State → Out) :
    andThen (andThen o f) g = andThen o (fun s => andThen (f s) g) := by
  cases o <;> rfl

theorem withChannel_eq_next {s : State} {i : Nat} {o : Out} {t : State} :
    withChannel s i o = .next t ↔ i < s.numChannels ∧ o = .next t := by
  unfold withChannel; split <;> simp_all

/-- An operation of a channel that exists is what stands behind the check. -/
theorem withChannel_of_lt {s : State} {i : Nat} (o : Out) (h : i < s.numChannels) : withChannel s i o = o := if_pos h

@[simp] theorem forEach_nil (act : Nat → State → Out) (s : State) : forEach act [] s = .next s := rfl

theorem forEach_cons (act : Nat → State → Out) (i : Nat) (rest : List Nat) (s : State) :
    forEach act (i :: rest) s = andThen (act i s) (forEach act rest) := rfl

/-- A loop over channels satisfies every reflexive and transitive relation its body satisfies. -/
theorem forEach_rel {R : State → State → Prop} (refl : ∀ s, R s s) (trans : ∀ s t u, R s t → R t u → R s u)
    {act : Nat → State → Out} (body : ∀ i s t, act i s = .next t → R s t) (is : List Nat) (s t : State)
    (h : forEach act is s = .next t) : R s t := by
  induction is generalizing s with
  | nil => cases h; exact refl _
  | cons i rest ih =>
    obtain ⟨u, hu, ht⟩ := andThen_eq_next.mp h
    exact trans _ _ _ (body i s u hu) (ih u ht)

/-- A loop whose body is a total update is the fold of the update. -/
theorem forEach_total {act : Nat → State → Out} {f : Nat → State → State} (is : List Nat)
    (h : ∀ i ∈ is, ∀ s, act i s = .next (f i s)) (s : State) :
    forEach act is s = .next (is.foldl (fun s i => f i s) s) := by
  induction is generalizing s with
  | nil => rfl
  | cons i rest ih =>
    rw [forEach_cons, h i (by simp), andThen_next, ih fun k hk => h k (by simp [hk])]
    rfl

/-! ### A copy the environment does nothing in -/

/-- With no events nothing runs. -/
@[simp] theorem runEvents_nil (nest : Nest) (s : State) : runEvents nest [] s = .next s := rfl

@[simp] theorem eventsDue_nil (n k : Nat) : eventsDue [] n k = [] := rfl

/-- The memory effect of the last `m` units of a copy of `n` with no environment (20_memory R67). -/
def State.moveUnits (s : State) (src dst : Word) (n : Nat) (p : TransferPlan) : Nat → State
  | 0 => s
  | m + 1 =>
    (s.moveUnit (advance src p.srcStep (n - (m + 1))) (advance dst p.dstStep (n - (m + 1))) p.width).moveUnits src dst n p m

/-- A copy without nested operations always completes. -/
theorem copyUnits_quiet (nest : Nest) (src dst : Word) (n : Nat) (p : TransferPlan) (m : Nat) (s : State) :
    copyUnits nest [] src dst n p m s = .next (s.moveUnits src dst n p m) := by
  induction m generalizing s with
  | zero => rfl
  | succ m ih => simp [copyUnits, State.moveUnits, ih]

theorem copy_quiet (nest : Nest) (src dst : Word) (p : TransferPlan) (s : State) (h : s.copyEnv = []) :
    copy nest src dst p s = .next ((s.beginCopy (copyCall src dst p)).moveUnits src dst p.units p p.units) := by
  simp only [copy, h, List.headD_nil, copyUnits_quiet]

theorem State.moveUnits_rel {R : State → State → Prop} (refl : ∀ s, R s s) (trans : ∀ s t u, R s t → R t u → R s u)
    (unit : ∀ s a b w, R s (s.moveUnit a b w)) (s : State) (src dst : Word) (n : Nat) (p : TransferPlan) (m : Nat) :
    R s (s.moveUnits src dst n p m) := by
  induction m generalizing s with
  | zero => exact refl s
  | succ m ih => exact trans _ _ _ (unit _ _ _ _) (ih _)

/-! ### Activation -/

/-- An activation that is dropped at step 1 (42_channel_engine R175). -/
theorem executeActivation_dropped (nest : Nest) (i : Nat) (s : State)
    (h : ((s.chan i).inProgress || (s.chan i).done) = true) : executeActivation nest i s = .next s := if_pos h

/-- One more iteration of the loop. -/
theorem activationLoop_succ (nest : Nest) (i fuel : Nat) (s : State) :
    activationLoop nest i (fuel + 1) s = andThen (minorTransfer nest i s) fun s1 =>
      if (s1.chained i).goesOn i (s1.mustChain i) then activationLoop nest i fuel (s1.chained i)
      else .next (s1.chained i) := rfl

/-- More fuel does not change an answer. -/
theorem activationLoop_more_fuel (nest : Nest) (i : Nat) (fuel extra : Nat) (s t : State)
    (h : activationLoop nest i fuel s = .next t) : activationLoop nest i (fuel + extra) s = .next t := by
  induction fuel generalizing s with
  | zero => simp [activationLoop] at h
  | succ fuel ih =>
    rw [Nat.add_right_comm, activationLoop_succ]
    rw [activationLoop_succ] at h
    obtain ⟨s1, h1, h2⟩ := andThen_eq_next.mp h
    rw [h1, andThen_next]
    by_cases hg : (s1.chained i).goesOn i (s1.mustChain i) = true
    · rw [if_pos hg] at h2 ⊢; exact ih _ h2
    · rw [if_neg hg] at h2 ⊢; exact h2

/-- The fuel in the form the loop lemmas use. -/
theorem loopFuel_eq : Config.loopFuel = 18446744073709551615 + 1 := rfl

/-! ### The lifting principle -/

/-- The elementary updates of the channel engine satisfy `R`. -/
structure EngineLifts (R : State → State → Prop) : Prop where
  refl : ∀ s, R s s
  trans : ∀ s t u, R s t → R t u → R s u
  diag : ∀ s g, R s (s.diag g)
  beginCopy : ∀ (s : State) (src dst : Word) (p : TransferPlan), R s (s.beginCopy (copyCall src dst p))
  moveUnit : ∀ (s : State) (a b : Word) (w : Nat), R s (s.moveUnit a b w)
  afterCopy : ∀ i d p s, R s (afterCopy i d p s)
  chainLoad : ∀ s i, R s (s.chainLoad i)
  clearDone : ∀ s i, R s (s.updateChan i fun c => { c with done := false })
  guarded : ∀ s t i, (s.chan i).inProgress = false → R (s.guard i true) t → R s (t.guard i false)
  armPull : ∀ s i b, R s (s.armPull i b)

/-- The elementary updates of the engine, of signal delivery and of the register writes satisfy `R`. -/
structure Lifts (R : State → State → Prop) : Prop extends EngineLifts R where
  asserted : ∀ (s : State) k, R s { s with asserted := insertId k s.asserted }
  deasserted : ∀ (s : State) k, R s { s with asserted := eraseId k s.asserted }
  enableStores : ∀ s v, R s (s.enableStores v)
  writeDisable : ∀ s v, R s (s.writeDisable v)
  writeDone : ∀ s v, R s (s.writeDone v)
  writeIntflag : ∀ s v, R s (s.writeIntflag v)
  writeInten : ∀ s v, R s (s.writeInten v)
  reqdisableStores : ∀ s v, R s (s.reqdisableStores v)
  writeReqsel : ∀ s i a b, R s (s.writeReqsel i a b)
  writeConfig : ∀ s i v, R s (s.writeConfig i v)
  writeLoop : ∀ s i v, R s (s.writeLoop i v)
  ctrlStores : ∀ s i v, R s (s.ctrlStores i v)
  writeSrcaddr : ∀ s i v, R s (s.writeSrcaddr i v)
  writeDstaddr : ∀ s i v, R s (s.writeDstaddr i v)
  writeLink : ∀ s i v, R s (s.writeLink i v)

/-- A nested runner satisfies `R`. -/
abbrev NestRel (R : State → State → Prop) (nest : Nest) : Prop := ∀ op s t, nest op s = .next t → R s t

section
variable {R : State → State → Prop} (L : EngineLifts R) {nest : Nest} (N : NestRel R nest)
include L

theorem EngineLifts.reportPull (i : Nat) (s : State) : R s (s.reportPull i) := by
  unfold State.reportPull; split
  · exact L.refl s
  · exact L.diag s _

theorem EngineLifts.disarmTest (i : Nat) (s : State) : R s (s.disarmTest i) := by
  unfold State.disarmTest; split
  · exact L.armPull s i false
  · exact L.refl s

theorem EngineLifts.chainOn (i : Nat) (s : State) : R s (s.chainOn i) :=
  L.trans _ _ _ (L.chainLoad s i) (L.clearDone _ i)

theorem EngineLifts.chained (i : Nat) (s : State) : R s (s.chained i) := by
  unfold State.chained; split
  · exact L.chainOn i s
  · exact L.refl s

include N

theorem EngineLifts.runEvents (es : List CopyEvent) (s t : State) (h : runEvents nest es s = .next t) : R s t := by
  induction es generalizing s with
  | nil => cases h; exact L.refl _
  | cons e rest ih =>
    obtain ⟨u, hu, ht⟩ := andThen_eq_next.mp h
    exact L.trans _ _ _ (N _ _ _ hu) (ih u ht)

theorem EngineLifts.copyUnits (events : List CopyEvent) (src dst : Word) (n : Nat) (p : TransferPlan) (m : Nat) (s t : State)
    (h : copyUnits nest events src dst n p m s = .next t) : R s t := by
  induction m generalizing s with
  | zero => exact L.runEvents N _ s t h
  | succ m ih =>
    obtain ⟨u, hu, ht⟩ := andThen_eq_next.mp h
    exact L.trans _ _ _ (L.runEvents N _ s u hu) (L.trans _ _ _ (L.moveUnit u _ _ _) (ih _ ht))

theorem EngineLifts.copy (src dst : Word) (p : TransferPlan) (s t : State) (h : copy nest src dst p s = .next t) : R s t :=
  L.trans _ _ _ (L.beginCopy s src dst p) (L.copyUnits N _ src dst _ p _ _ t h)

theorem EngineLifts.minorTransfer (i : Nat) (s t : State) (h : minorTransfer nest i s = .next t) : R s t := by
  simp only [Machine.minorTransfer] at h
  split at h
  · cases h; exact L.diag s _
  · obtain ⟨u, hu, ht⟩ := andThen_eq_next.mp h
    cases ht
    exact L.trans _ _ _ (L.copy N _ _ _ s u hu) (L.afterCopy _ _ _ u)

theorem EngineLifts.activationLoop (i fuel : Nat) (s t : State) (h : activationLoop nest i fuel s = .next t) : R s t := by
  induction fuel generalizing s with
  | zero => simp [Machine.activationLoop] at h
  | succ fuel ih =>
    rw [activationLoop_succ] at h
    obtain ⟨u, hu, ht⟩ := andThen_eq_next.mp h
    refine L.trans _ _ _ (L.minorTransfer N i s u hu) ?_
    by_cases hg : (u.chained i).goesOn i (u.mustChain i) = true
    · rw [if_pos hg] at ht; exact L.trans _ _ _ (L.chained i u) (ih _ ht)
    · rw [if_neg hg] at ht; cases ht; exact L.chained i u

theorem EngineLifts.executeActivation (i : Nat) (s t : State) (h : executeActivation nest i s = .next t) : R s t := by
  unfold Machine.executeActivation at h
  split at h
  · cases h; exact L.refl s
  next hg =>
    obtain ⟨u, hu, ht⟩ := andThen_eq_next.mp h
    cases ht
    have hp : (s.chan i).inProgress = false := by simp_all
    exact L.guarded s u i hp (L.activationLoop N i _ _ u hu)

theorem EngineLifts.attemptStart (i : Nat) (s t : State) (h : attemptStart nest i s = .next t) : R s t := by
  unfold Machine.attemptStart at h
  split at h
  · cases h; exact L.armPull s i true
  · exact L.trans _ _ _ (L.reportPull i s) (L.executeActivation N i _ t h)

theorem EngineLifts.linkLoadOp (i : Nat) (s t : State) (h : linkLoadOp nest i s = .next t) : R s t := by
  simp only [Machine.linkLoadOp] at h
  split at h
  · exact L.trans _ _ _ (L.chainLoad s i) (L.attemptStart N i _ t h)
  · cases h; exact L.chainLoad s i

theorem EngineLifts.pullTick (i : Nat) (s t : State) (h : pullTick nest i s = .next t) : R s t := by
  obtain ⟨u, hu, ht⟩ := andThen_eq_next.mp h
  cases ht
  refine L.trans _ _ _ ?_ (L.disarmTest i u)
  split at hu
  · exact L.executeActivation N i s u hu
  · cases hu; exact L.refl _

end

section
variable {R : State → State → Prop} (L : Lifts R) {nest : Nest} (N : NestRel R nest)
include L N

theorem Lifts.signal (id : Word) (level : Bool) (s t : State) (h : signal nest id level s = .next t) : R s t := by
  unfold Machine.signal at h
  simp only at h
  split at h
  · refine L.trans _ _ _ (L.asserted s _) (forEach_rel L.refl L.trans (fun i u v huv => ?_) _ _ t h)
    unfold deliver at huv
    split at huv
    · exact L.attemptStart N i u v huv
    · cases huv; exact L.refl u
  · cases h; exact L.deasserted s _

theorem Lifts.writeReg (r : RegName) (v : Word) (s t : State) (h : writeReg nest r v s = .next t) : R s t := by
  cases r with
  | enable =>
    exact L.trans _ _ _ (L.enableStores s v)
      (forEach_rel L.refl L.trans (fun i u w huw => L.attemptStart N i u w huw) _ _ t h)
  | disable => cases h; exact L.writeDisable s v
  | status => cases h; exact L.refl s
  | done => cases h; exact L.writeDone s v
  | intflag => cases h; exact L.writeIntflag s v
  | inten => cases h; exact L.writeInten s v
  | force =>
    refine forEach_rel L.refl L.trans (fun i u w huw => ?_) _ _ t h
    unfold forceOne at huw
    split at huw
    · exact L.attemptStart N i u w huw
    · cases huw; exact L.diag u _
  | linkload => exact forEach_rel L.refl L.trans (fun i u w huw => L.linkLoadOp N i u w huw) _ _ t h
  | reqdisable =>
    refine L.trans _ _ _ (L.reqdisableStores s v) (forEach_rel L.refl L.trans (fun i u w huw => ?_) _ _ t h)
    unfold catchUp at huw
    split at huw
    · exact L.attemptStart N i u w huw
    · cases huw; exact L.refl u
  | reqsel i => cases h; exact L.writeReqsel s i _ _
  | config i => cases h; exact L.writeConfig s i v
  | loop i => cases h; exact L.writeLoop s i v
  | ctrl i =>
    simp only [Machine.writeReg, writeCtrl] at h
    split at h
    · exact L.trans _ _ _ (L.ctrlStores s i v) (L.linkLoadOp N i _ t h)
    · cases h; exact L.ctrlStores s i v
  | srcaddr i => cases h; exact L.writeSrcaddr s i v
  | dstaddr i => cases h; exact L.writeDstaddr s i v
  | link i => cases h; exact L.writeLink s i v

theorem Lifts.writeVia (bank : Bank) (r : RegName) (v : Word) (s t : State) (h : writeVia nest bank r v s = .next t) :
    R s t := by
  unfold Machine.writeVia at h
  split at h
  · exact L.writeReg N r _ s t h
  · cases h

theorem Lifts.writeAddress (bank : BitVec 2) (offset : BitVec 12) (v : Word) (s t : State)
    (h : writeAddress nest bank offset v s = .next t) : R s t := by
  unfold Machine.writeAddress at h
  split at h
  · exact L.writeVia N _ _ v s t h
  · cases h

theorem Lifts.applyEnvOp (op : EnvOp) (s t : State) (h : applyEnvOp nest op s = .next t) : R s t := by
  cases op with
  | sig id level => exact L.signal N id level s t h
  | rd bank r =>
    simp only [Machine.applyEnvOp] at h
    split at h
    · cases h
    · split at h
      · cases h; exact L.refl _
      · cases h
  | wr bank r v =>
    simp only [Machine.applyEnvOp] at h
    split at h
    · exact L.writeVia N _ _ v s t h
    · cases h
  | wrReqsel i a b =>
    obtain ⟨_, h⟩ := withChannel_eq_next.mp h
    cases h; exact L.writeReqsel s i a b

omit N in
/-- Operations nested to any depth satisfy `R`. -/
theorem Lifts.nested (depth : Nat) : NestRel R (nested depth) := by
  induction depth with
  | zero => intro op s t h; cases h
  | succ depth ih => intro op s t h; exact L.applyEnvOp ih op s t h

end

end Sys2Proof.Machine
end

