-- ==== Sys2Proof/Laws/Exec.lean ====
section
/-! SUPPORT. The lifting principle for whole operations: a relation that the elementary updates, an answer, `setDone` and `RESET`
satisfy holds between the states before and after every operation. -/

namespace Sys2Proof.Machine

/-- The state `RESET` leaves (70_reset R310). -/
def State.resetAll (s : State) : State := { s with ch := s.ch.map resetChannel, asserted := [] }

theorem execReset_eq (s : State) : execReset s = .next s.resetAll := rfl

/-- What one operation does to the state, from what the updates do to it. -/
theorem exec_rel {R : State → State → Prop} (L : Lifts R) (answer : ∀ s r, R s (s.answer r))
    (complete : ∀ s i, R s (s.complete i)) (reset : ∀ s, R s s.resetAll) (op : Instr) (s t : State)
    (h : exec op s = .next t) : R s t := by
  have N : NestRel R s.nest := L.nested _
  cases op with
  | reset => cases h; exact reset s
  | sig id level => exact L.signal N id level s t h
  | tick i =>
    obtain ⟨_, h⟩ := withChannel_eq_next.mp h
    split at h
    · exact L.pullTick N i s t h
    · cases h
  | wrEnable v => exact L.writeReg N .enable v s t h
  | wrDisable v => cases h; exact L.writeDisable s v
  | wrStatus v => cases h; exact L.refl _
  | wrDone v => cases h; exact L.writeDone s v
  | wrIntflag v => cases h; exact L.writeIntflag s v
  | wrInten v => cases h; exact L.writeInten s v
  | wrForce v => exact L.writeReg N .force v s t h
  | wrLinkload v => exact L.writeReg N .linkload v s t h
  | wrReqdisable v => exact L.writeReg N .reqdisable v s t h
  | rdEnable | rdDisable | rdStatus | rdDone | rdIntflag | rdInten | rdForce | rdLinkload | rdReqdisable =>
    cases h; exact answer s _
  | wrReqsel i a b => obtain ⟨_, h⟩ := withChannel_eq_next.mp h; cases h; exact L.writeReqsel s i a b
  | wrConfig i v => obtain ⟨_, h⟩ := withChannel_eq_next.mp h; cases h; exact L.writeConfig s i v
  | wrLoop i v => obtain ⟨_, h⟩ := withChannel_eq_next.mp h; cases h; exact L.writeLoop s i v
  | wrCtrl i v => obtain ⟨_, h⟩ := withChannel_eq_next.mp h; exact L.writeReg N (.ctrl i) v s t h
  | wrSrcaddr i v => obtain ⟨_, h⟩ := withChannel_eq_next.mp h; cases h; exact L.writeSrcaddr s i v
  | wrDstaddr i v => obtain ⟨_, h⟩ := withChannel_eq_next.mp h; cases h; exact L.writeDstaddr s i v
  | wrLink i v => obtain ⟨_, h⟩ := withChannel_eq_next.mp h; cases h; exact L.writeLink s i v
  | rdReqsel i | rdConfig i | rdLoop i | rdCtrl i | rdSrcaddr i | rdDstaddr i | rdLink i | matchesId i k
  | signalIsOn i =>
    obtain ⟨_, h⟩ := withChannel_eq_next.mp h; cases h; exact answer s _
  | wrPlain r v | wrSet r v | wrClr r v | wrTgl r v => exact L.writeAddress N _ r v s t h
  | rdAny bank r =>
    simp only [exec, execRdAny, readAddress] at h
    split at h
    · split at h
      · cases h; exact answer _ _
      · cases h
    · cases h
  | descW0 w | descW1 w | descW2 w | descW3 w | descW4to7 w | sigId id | encodeDesc d | updateInterrupts =>
    cases h; exact answer s _
  | decodeDesc b =>
    simp only [exec, execDecodeDesc] at h
    split at h
    · cases h; exact answer _ _
    · cases h
  | shouldPull i =>
    obtain ⟨_, h⟩ := withChannel_eq_next.mp h; cases h
    exact L.trans _ _ _ (L.reportPull i s) (answer _ _)
  | attemptStart i => obtain ⟨_, h⟩ := withChannel_eq_next.mp h; exact L.attemptStart N i s t h
  | executeActivation i => obtain ⟨_, h⟩ := withChannel_eq_next.mp h; exact L.executeActivation N i s t h
  | minorTransfer i => obtain ⟨_, h⟩ := withChannel_eq_next.mp h; exact L.minorTransfer N i s t h
  | setDone i => obtain ⟨_, h⟩ := withChannel_eq_next.mp h; cases h; exact complete s i
  | chainLoad i => obtain ⟨_, h⟩ := withChannel_eq_next.mp h; cases h; exact L.chainLoad s i
  | linkLoadOp i => obtain ⟨_, h⟩ := withChannel_eq_next.mp h; exact L.linkLoadOp N i s t h

/-- One step is idle, or one decoded operation on the state without its packet. -/
theorem step_cases (s t : State) (h : step s = .next t) :
    t = s ∨ ∃ i rest, Sys2Proof.decode s.pending = .ok (i, rest) ∧ exec i { s with pending := rest } = .next t := by
  unfold step at h
  split at h
  · cases h; exact .inl rfl
  · split at h
    next i rest e => exact .inr ⟨i, rest, e, h⟩
    next => cases h

end Sys2Proof.Machine
end

