-- ==== Sys2Proof/Laws/Flags.lean ====
section
/-! SUPPORT. The bank words, bit by bit. -/

namespace Sys2Proof.Machine

theorem packBits_testBit (l : List Bool) (i : Nat) : (packBits l).testBit i = l.getD i false := by
  induction l generalizing i with
  | nil => simp [packBits]
  | cons b rest ih =>
    cases i with
    | zero => cases b <;> simp [packBits, Nat.testBit_zero, Nat.add_mod]
    | succ i =>
      rw [Nat.testBit_succ]
      have : (packBits (b :: rest)) / 2 = packBits rest := by
        cases b <;> (simp [packBits]; try omega)
      rw [this, ih]; simp

/-- Bit `i` of a bank word is the flag of channel `i`; bits of channels that do not exist are 0 (30_encoding R113). -/
theorem State.getLsbD_bankWord (s : State) (f : Channel → Bool) (i : Nat) :
    (s.bankWord f).getLsbD i = (decide (i < 32) && decide (i < s.numChannels) && f (s.chan i)) := by
  simp only [State.bankWord, BitVec.getLsbD_ofNat, packBits_testBit]
  by_cases h : i < s.ch.length
  · simp [State.numChannels, State.chan, h]
  · simp [State.numChannels, List.getD_eq_getElem?_getD, h]

/-- The wide output is the disjunction of the channel outputs. -/
theorem State.irqWide_eq_true (s : State) : s.irqWide = true ↔ ∃ i, i < s.numChannels ∧ s.irqCh i = true := by
  simp only [State.irqWide, List.any_eq_true, State.irqCh, State.numChannels]
  constructor
  · rintro ⟨c, hc, h⟩
    obtain ⟨i, hi, rfl⟩ := List.getElem_of_mem hc
    exact ⟨i, hi, by simpa [State.chan, hi] using h⟩
  · rintro ⟨i, hi, h⟩
    exact ⟨s.ch[i], List.getElem_mem hi, by simpa [State.chan, hi] using h⟩

end Sys2Proof.Machine
end

