-- ==== Sys2Proof/Laws/PerInstr.lean ====
section
/-! SUPPORT. One statement about every operation as syntax, proved constructor by constructor. -/

namespace Sys2Proof.Laws.PacketLength

/-- A well-formed operation's packet has a first word and at most 32 bytes of operands (log 2). -/
def Statement (i : Instr) : Prop :=
  i.wellFormed = true → 2 ≤ (encode i).length ∧ (encode i).length ≤ 34

/-- The statement from the length of the packet. -/
theorem of_length {i : Instr} (n : Nat) (h : (encode i).length = n) (low : 2 ≤ n) (high : n ≤ 34) : Statement i :=
  fun _ => ⟨h ▸ low, h ▸ high⟩

theorem reset : Statement .reset := of_length 2 rfl (by decide) (by decide)

theorem sig (id : Word) (level : Bool) : Statement (.sig id level) := of_length 6 rfl (by decide) (by decide)

theorem tick (i : Nat) : Statement (.tick i) := of_length 2 rfl (by decide) (by decide)

theorem wrEnable (v : Word) : Statement (.wrEnable v) := of_length 6 rfl (by decide) (by decide)

theorem rdEnable : Statement .rdEnable := of_length 2 rfl (by decide) (by decide)

theorem wrDisable (v : Word) : Statement (.wrDisable v) := of_length 6 rfl (by decide) (by decide)

theorem rdDisable : Statement .rdDisable := of_length 2 rfl (by decide) (by decide)

theorem wrStatus (v : Word) : Statement (.wrStatus v) := of_length 6 rfl (by decide) (by decide)

theorem rdStatus : Statement .rdStatus := of_length 2 rfl (by decide) (by decide)

theorem wrDone (v : Word) : Statement (.wrDone v) := of_length 6 rfl (by decide) (by decide)

theorem rdDone : Statement .rdDone := of_length 2 rfl (by decide) (by decide)

theorem wrIntflag (v : Word) : Statement (.wrIntflag v) := of_length 6 rfl (by decide) (by decide)

theorem rdIntflag : Statement .rdIntflag := of_length 2 rfl (by decide) (by decide)

theorem wrInten (v : Word) : Statement (.wrInten v) := of_length 6 rfl (by decide) (by decide)

theorem rdInten : Statement .rdInten := of_length 2 rfl (by decide) (by decide)

theorem wrForce (v : Word) : Statement (.wrForce v) := of_length 6 rfl (by decide) (by decide)

theorem rdForce : Statement .rdForce := of_length 2 rfl (by decide) (by decide)

theorem wrLinkload (v : Word) : Statement (.wrLinkload v) := of_length 6 rfl (by decide) (by decide)

theorem rdLinkload : Statement .rdLinkload := of_length 2 rfl (by decide) (by decide)

theorem wrReqdisable (v : Word) : Statement (.wrReqdisable v) := of_length 6 rfl (by decide) (by decide)

theorem rdReqdisable : Statement .rdReqdisable := of_length 2 rfl (by decide) (by decide)

theorem wrReqsel (i : Nat) (source : BitVec 6) (signal : BitVec 4) : Statement (.wrReqsel i source signal) := of_length 4 rfl (by decide) (by decide)

theorem rdReqsel (i : Nat) : Statement (.rdReqsel i) := of_length 2 rfl (by decide) (by decide)

theorem wrConfig (i : Nat) (v : Word) : Statement (.wrConfig i v) := of_length 6 rfl (by decide) (by decide)

theorem rdConfig (i : Nat) : Statement (.rdConfig i) := of_length 2 rfl (by decide) (by decide)

theorem wrLoop (i : Nat) (v : Word) : Statement (.wrLoop i v) := of_length 6 rfl (by decide) (by decide)

theorem rdLoop (i : Nat) : Statement (.rdLoop i) := of_length 2 rfl (by decide) (by decide)

theorem wrCtrl (i : Nat) (v : Word) : Statement (.wrCtrl i v) := of_length 6 rfl (by decide) (by decide)

theorem rdCtrl (i : Nat) : Statement (.rdCtrl i) := of_length 2 rfl (by decide) (by decide)

theorem wrSrcaddr (i : Nat) (v : Word) : Statement (.wrSrcaddr i v) := of_length 6 rfl (by decide) (by decide)

theorem rdSrcaddr (i : Nat) : Statement (.rdSrcaddr i) := of_length 2 rfl (by decide) (by decide)

theorem wrDstaddr (i : Nat) (v : Word) : Statement (.wrDstaddr i v) := of_length 6 rfl (by decide) (by decide)

theorem rdDstaddr (i : Nat) : Statement (.rdDstaddr i) := of_length 2 rfl (by decide) (by decide)

theorem wrLink (i : Nat) (v : Word) : Statement (.wrLink i v) := of_length 6 rfl (by decide) (by decide)

theorem rdLink (i : Nat) : Statement (.rdLink i) := of_length 2 rfl (by decide) (by decide)

theorem wrPlain (r : BitVec 12) (v : Word) : Statement (.wrPlain r v) := of_length 6 rfl (by decide) (by decide)

theorem wrSet (r : BitVec 12) (v : Word) : Statement (.wrSet r v) := of_length 6 rfl (by decide) (by decide)

theorem wrClr (r : BitVec 12) (v : Word) : Statement (.wrClr r v) := of_length 6 rfl (by decide) (by decide)

theorem wrTgl (r : BitVec 12) (v : Word) : Statement (.wrTgl r v) := of_length 6 rfl (by decide) (by decide)

theorem rdAny (bank : BitVec 2) (r : BitVec 12) : Statement (.rdAny bank r) := of_length 2 rfl (by decide) (by decide)

theorem descW0 (v : Word) : Statement (.descW0 v) := of_length 6 rfl (by decide) (by decide)

theorem descW1 (v : Word) : Statement (.descW1 v) := of_length 6 rfl (by decide) (by decide)

theorem descW2 (v : Word) : Statement (.descW2 v) := of_length 6 rfl (by decide) (by decide)

theorem descW3 (v : Word) : Statement (.descW3 v) := of_length 6 rfl (by decide) (by decide)

theorem descW4to7 (v : Word) : Statement (.descW4to7 v) := of_length 6 rfl (by decide) (by decide)

theorem sigId (v : Word) : Statement (.sigId v) := of_length 6 rfl (by decide) (by decide)

theorem decodeDesc (b : List Byte) : Statement (.decodeDesc b) := by
  intro h
  have hb : b.length = 32 := of_decide_eq_true h
  have hl : (encode (.decodeDesc b)).length = b.length + 2 := rfl
  omega

theorem encodeDesc (d : TransferDescriptor) : Statement (.encodeDesc d) := of_length 34 rfl (by decide) (by decide)

theorem shouldPull (i : Nat) : Statement (.shouldPull i) := of_length 2 rfl (by decide) (by decide)

theorem attemptStart (i : Nat) : Statement (.attemptStart i) := of_length 2 rfl (by decide) (by decide)

theorem executeActivation (i : Nat) : Statement (.executeActivation i) := of_length 2 rfl (by decide) (by decide)

theorem minorTransfer (i : Nat) : Statement (.minorTransfer i) := of_length 2 rfl (by decide) (by decide)

theorem setDone (i : Nat) : Statement (.setDone i) := of_length 2 rfl (by decide) (by decide)

theorem chainLoad (i : Nat) : Statement (.chainLoad i) := of_length 2 rfl (by decide) (by decide)

theorem linkLoadOp (i : Nat) : Statement (.linkLoadOp i) := of_length 2 rfl (by decide) (by decide)

theorem matchesId (i : Nat) (k : SignalId) : Statement (.matchesId i k) := of_length 6 rfl (by decide) (by decide)

theorem signalIsOn (i : Nat) : Statement (.signalIsOn i) := of_length 2 rfl (by decide) (by decide)

theorem updateInterrupts : Statement .updateInterrupts := of_length 2 rfl (by decide) (by decide)

end Sys2Proof.Laws.PacketLength
end

