-- ==== Sys2Proof/Laws/Safety.lean ====
section
/-! SUPPORT. The specification functions of Safety.lean beside the shared operations they describe. -/

namespace Sys2Proof.Machine

@[simp] theorem inTurn_nil (act : Nat → State → Out) (s : State) : inTurn act [] s = .next s := rfl

theorem inTurn_eq_forEach (act : Nat → State → Out) (is : List Nat) (s : State) : inTurn act is s = forEach act is s := by
  induction is generalizing s with
  | nil => rfl
  | cons i rest ih =>
    simp only [inTurn, forEach_cons]
    cases act i s with
    | next t => exact ih t
    | fault r => rfl
    | refused r => rfl

theorem State.bitsOf_eq_selected (s : State) (v : Word) : s.bitsOf v = selected v s.channels := rfl

@[simp] theorem unitsMoved_zero (m : Word → Byte) (src dst : Word) (sInc dInc w : Nat) :
    unitsMoved m src dst sInc dInc w 0 = m := rfl

/-- A block store reads back, byte by byte, where it does not wrap onto itself. -/
theorem State.readByte_writeBytes (s : State) (a k : Word) (b : List Byte) (h : s.mem.wf) (hb : b.length ≤ 2 ^ 32) :
    (s.writeBytes a b).readByte k =
      if (k - a).toNat < b.length then b.getD (k - a).toNat 0 else s.readByte k := by
  induction b generalizing s a with
  | nil => rfl
  | cons x rest ih =>
    simp only [List.length_cons] at hb ⊢
    rw [State.writeBytes, ih _ _ (s.wf_writeByte a x h) (by omega)]
    by_cases e : k = a
    · subst e
      have h1 : (k - (k + 1)).toNat = 2 ^ 32 - 1 := by
        rw [show k - (k + 1) = (-1 : Word) by bv_omega]; rfl
      have h2 : (k - k).toNat = 0 := by simp
      rw [if_neg (by omega), if_pos (by omega), h2, s.readByte_writeByte_self k x h]; rfl
    · have h1 : (k - a).toNat = (k - (a + 1)).toNat + 1 := by bv_omega
      rw [h1]
      by_cases c : (k - (a + 1)).toNat < rest.length
      · rw [if_pos c, if_pos (by omega)]; rfl
      · rw [if_neg c, if_neg (by omega), s.readByte_writeByte_other a k x e]

/-- What one unit move does to memory. -/
theorem State.readByte_moveUnit (s : State) (src dst : Word) (w : Nat) (h : s.mem.wf) (hw : w ≤ 2 ^ 32) (a : Word) :
    (s.moveUnit src dst w).readByte a = unitMoved s.readByte src dst w a := by
  rw [State.moveUnit, s.readByte_writeBytes dst a _ h (by simpa using hw), unitMoved, State.readBytes_length]
  by_cases c : (a - dst).toNat < w
  · rw [if_pos c, if_pos c, s.readBytes_getD src w _ c, BitVec.ofNat_toNat, BitVec.setWidth_eq]
  · rw [if_neg c, if_neg c]

/-- What the rest of a copy of `n` units does, when all but the last `m` are moved (20_memory R67). -/
theorem State.readByte_moveUnits (s : State) (src dst : Word) (n : Nat) (p : TransferPlan) (m : Nat) (h : s.mem.wf)
    (hw : p.width ≤ 2 ^ 32) (hm : m ≤ n) (before : Word → Byte)
    (hs : s.readByte = unitsMoved before src dst p.srcStep p.dstStep p.width (n - m)) :
    (s.moveUnits src dst n p m).readByte = unitsMoved before src dst p.srcStep p.dstStep p.width n := by
  induction m generalizing s with
  | zero => simpa only [Nat.sub_zero, State.moveUnits] using hs
  | succ m ih =>
    refine ih _ (s.wf_moveUnit _ _ _ h) (by omega) ?_
    funext a
    rw [s.readByte_moveUnit _ _ _ h hw, hs, show n - m = n - (m + 1) + 1 by omega]
    rfl

/-- A plain write as a nested operation is the register's own row. -/
theorem exec_writeRow (s : State) (r : RegName) (v : Word) :
    exec (writeRow s.params r v) s = if s.hasReg r then writeReg s.nest r v s else .refused .noSuchChannel := by
  cases r <;> simp [writeRow, exec, writeReg, State.hasReg, RegName.channel?, withChannel, reqselSource, reqselSignal,
    execWrEnable, execWrDisable, execWrStatus, execWrDone, execWrIntflag, execWrInten, execWrForce, execWrLinkload,
    execWrReqdisable, execWrReqsel, execWrConfig, execWrLoop, execWrCtrl, execWrSrcaddr, execWrDstaddr, execWrLink]

/-- A nested operation runs by its own row. -/
theorem applyEnvOp_eq_envAct (op : EnvOp) (s : State) : applyEnvOp s.nest op s = envAct op s := by
  cases op with
  | sig id level => rfl
  | wrReqsel i source signal => rfl
  | rd bank r => cases bank <;> cases h : s.params.hasAliasBanks <;> simp [applyEnvOp, envAct, State.hasBank, h]
  | wr bank r v =>
    cases bank <;> cases h : s.params.hasAliasBanks <;>
      simp [applyEnvOp, envAct, State.hasBank, h, exec_writeRow, writeVia, combine]

end Sys2Proof.Machine
end

