-- ==== Sys2Proof/Tests/Slice0.lean ====
section
/-! SUPPORT. The model's own tests: the ill-formed terms the checks refuse, words written out from the spec's encodings and what
they decode to, the vectors of 95_test_vectors.md one step at a time, and for every obligation with hypotheses a concrete
state and operands that meet them. -/

namespace Sys2Proof.Tests

open Sys2Proof Sys2Proof.Machine

/-! ### Well-formedness -/

/-- A channel of 32 or more, a byte array that is not 32 bytes. -/
theorem test_ill_formed_terms_are_refused :
    (Instr.tick 32).wellFormed = false ∧ (Instr.tick 31).wellFormed = true ∧
    (Instr.wrReqsel 32 0 0).wellFormed = false ∧ (Instr.wrCtrl 40 0).wellFormed = false ∧
    (Instr.matchesId 32 ⟨0, 0, false⟩).wellFormed = false ∧
    (Instr.decodeDesc []).wellFormed = false ∧ (Instr.decodeDesc (List.replicate 33 0)).wellFormed = false ∧
    (Instr.decodeDesc (List.replicate 32 0)).wellFormed = true := by decide

/-- `NUM_CHANNELS` of 0 and above 32, and registers of channels that do not exist, are refused. -/
theorem test_channel_counts : ∀ n, n < 34 → (Config.defaultParams.wf n ↔ 2 ≤ n ∧ n ≤ 32) := by decide

/-- Every check of the parameters refuses an ill-formed record (00_scope R6). -/
theorem test_ill_formed_parameters_are_refused :
    ∀ p ∈ [{ Config.defaultParams with pullPeriodTicks := 0 },
      { Config.defaultParams with regOffset := [(.done, 0x1000)] },
      { Config.defaultParams with regOffset := [(.done, 4), (.force, 4)] },
      { Config.defaultParams with regOffset := [(.ctrl 2, 4)] },
      { Config.defaultParams with reqselSourceLo := 27 },
      { Config.defaultParams with reqselSignalLo := 29 },
      { Config.defaultParams with reqselSignalLo := 9 }],
      ¬ Params.wf p 2 := by decide

/-! ### Decoding: packets written out by hand -/

/-- The 32 bytes of vector K3. -/
def k3 : List Byte := [0x30, 0, 0x10, 0, 0, 0x10, 0, 0, 0, 0x20, 0, 0, 0, 0, 0, 0] ++ List.replicate 16 0

/-- Operations without operands: selector in bits 13:8 of the first word, class 2, low byte 0 (log 2). -/
theorem test_decode_bare :
    ∀ p ∈ ([
      ([0, 0x80], .reset, []), ([0, 0x84], .rdEnable, []), ([0, 0x86], .rdDisable, []),
      ([0, 0x88], .rdStatus, []), ([0, 0x8A], .rdDone, []), ([0, 0x8C], .rdIntflag, []),
      ([0, 0x8E], .rdInten, []), ([0, 0x90], .rdForce, []), ([0, 0x92], .rdLinkload, []),
      ([0, 0x94], .rdReqdisable, []), ([0, 0xB4], .updateInterrupts, [])] :
      List (List Byte × Instr × List Byte)),
      decode p.1 = .ok p.2 := by decide

/-- Operations with one word, here `0x84030201`, least significant byte first. -/
theorem test_decode_words :
    ∀ p ∈ ([
      ([0, 0x83, 1, 2, 3, 0x84], .wrEnable 0x84030201, []),
      ([0, 0x85, 1, 2, 3, 0x84], .wrDisable 0x84030201, []),
      ([0, 0x87, 1, 2, 3, 0x84], .wrStatus 0x84030201, []), ([0, 0x89, 1, 2, 3, 0x84], .wrDone 0x84030201, []),
      ([0, 0x8B, 1, 2, 3, 0x84], .wrIntflag 0x84030201, []),
      ([0, 0x8D, 1, 2, 3, 0x84], .wrInten 0x84030201, []), ([0, 0x8F, 1, 2, 3, 0x84], .wrForce 0x84030201, []),
      ([0, 0x91, 1, 2, 3, 0x84], .wrLinkload 0x84030201, []),
      ([0, 0x93, 1, 2, 3, 0x84], .wrReqdisable 0x84030201, []),
      ([0, 0xA3, 1, 2, 3, 0x84], .descW0 0x84030201, []), ([0, 0xA4, 1, 2, 3, 0x84], .descW1 0x84030201, []),
      ([0, 0xA5, 1, 2, 3, 0x84], .descW2 0x84030201, []), ([0, 0xA6, 1, 2, 3, 0x84], .descW3 0x84030201, []),
      ([0, 0xA7, 1, 2, 3, 0x84], .descW4to7 0x84030201, []), ([0, 0xA8, 1, 2, 3, 0x84], .sigId 0x84030201, [])] :
      List (List Byte × Instr × List Byte)),
      decode p.1 = .ok p.2 := by decide

/-- Operations of one channel, here 31 (the largest), with a byte of the next packet behind. -/
theorem test_decode_channels :
    ∀ p ∈ ([
      ([31, 0x82, 7], .tick 31, [7]), ([31, 0x96, 7], .rdReqsel 31, [7]), ([31, 0x98, 7], .rdConfig 31, [7]),
      ([31, 0x9A, 7], .rdLoop 31, [7]), ([31, 0x9C, 7], .rdCtrl 31, [7]), ([31, 0x9E, 7], .rdSrcaddr 31, [7]),
      ([31, 0xA0, 7], .rdDstaddr 31, [7]), ([31, 0xA2, 7], .rdLink 31, [7]),
      ([31, 0xAB, 7], .shouldPull 31, [7]), ([31, 0xAC, 7], .attemptStart 31, [7]),
      ([31, 0xAD, 7], .executeActivation 31, [7]), ([31, 0xAE, 7], .minorTransfer 31, [7]),
      ([31, 0xAF, 7], .setDone 31, [7]), ([31, 0xB0, 7], .chainLoad 31, [7]),
      ([31, 0xB1, 7], .linkLoadOp 31, [7]), ([31, 0xB3, 7], .signalIsOn 31, [7])] :
      List (List Byte × Instr × List Byte)),
      decode p.1 = .ok p.2 := by decide

/-- Operations of one channel and a word. -/
theorem test_decode_channel_words :
    ∀ p ∈ ([
      ([1, 0x97, 1, 2, 3, 0x84], .wrConfig 1 0x84030201, []),
      ([1, 0x99, 1, 2, 3, 0x84], .wrLoop 1 0x84030201, []),
      ([1, 0x9B, 1, 2, 3, 0x84], .wrCtrl 1 0x84030201, []),
      ([1, 0x9D, 1, 2, 3, 0x84], .wrSrcaddr 1 0x84030201, []),
      ([1, 0x9F, 1, 2, 3, 0x84], .wrDstaddr 1 0x84030201, []),
      ([1, 0xA1, 1, 2, 3, 0x84], .wrLink 1 0x84030201, [])] :
      List (List Byte × Instr × List Byte)),
      decode p.1 = .ok p.2 := by decide

/-- The operations with operands of their own: `SIG` with each level and an identifier with ignored bits, `WR REQSEL[1], 3, 1`
(44_register_ops R246), `matches(1, k)` with the identifier `0x1031` of (3, 1, single). -/
theorem test_decode_others :
    ∀ p ∈ ([
      ([1, 0x81, 0x31, 0x1C, 0, 0], .sig 0x1C31 true, []), ([0, 0x81, 0x31, 0x1C, 0, 0], .sig 0x1C31 false, []),
      ([1, 0x95, 3, 1], .wrReqsel 1 3 1, []), ([1, 0xB2, 0x31, 0x10, 0, 0], .matchesId 1 ⟨3, 1, true⟩, [])] :
      List (List Byte × Instr × List Byte)),
      decode p.1 = .ok p.2 := by decide

/-- Register addresses (30_encoding R112): bank in bits 13:12, offset in bits 11:0. -/
theorem test_decode_addresses :
    ∀ p ∈ ([
      ([0x14, 0x01, 5, 0, 0, 0], .wrPlain 0x114 5, []), ([0x14, 0x11, 5, 0, 0, 0], .wrSet 0x114 5, []),
      ([0x14, 0x21, 5, 0, 0, 0], .wrClr 0x114 5, []), ([0xFF, 0x3F, 5, 0, 0, 0], .wrTgl 0xFFF 5, []),
      ([0x14, 0x41], .rdAny 0 0x114, []), ([0x14, 0x71], .rdAny 3 0x114, [])] :
      List (List Byte × Instr × List Byte)),
      decode p.1 = .ok p.2 := by decide

/-- `decode(b)` and `encode(d)` carry the descriptor of vector K3. -/
theorem test_decode_codec :
    ∀ p ∈ ([
      ((0 :: 0xA9 :: k3), .decodeDesc k3, []), ((0 :: 0xAA :: k3), .encodeDesc (decodeDescriptor k3), [])] :
      List (List Byte × Instr × List Byte)),
      decode p.1 = .ok p.2 := by decide

/-- What the decoder rejects, by name. -/
theorem test_decode_rejects :
    ∀ p ∈ ([
      ([], .truncated), ([0], .truncated), ([0, 0x83, 1, 2, 3], .truncated),
      ((0 :: 0xA9 :: k3.drop 1), .truncated), ([0, 0xC0], .reservedClass), ([0, 0xFF], .reservedClass),
      ([0, 0xB5], .unknownOperation), ([0, 0xBF], .unknownOperation), ([1, 0x80], .reservedBits),
      ([1, 0x83, 0, 0, 0, 0], .reservedBits), ([32, 0x82], .channelOutOfRange),
      ([32, 0x95, 0, 0], .channelOutOfRange), ([2, 0x81, 0, 0, 0, 0], .operandOutOfRange),
      ([0, 0x95, 64, 0], .operandOutOfRange), ([0, 0x95, 0, 16], .operandOutOfRange)] :
      List (List Byte × DecodeError)),
      decode p.1 = .error p.2 := by decide

/-- Words of the opcode table (log 3): a REGADDR word of each bank, and descriptor words. -/
theorem test_table_words :
    decodeTableWord 16 0x0014 = some (.wrPlain 0x014 0) ∧ decodeTableWord 16 0x1014 = some (.wrSet 0x014 0) ∧
    decodeTableWord 16 0x2010 = some (.wrClr 0x010 0) ∧ decodeTableWord 16 0x3014 = some (.wrTgl 0x014 0) ∧
    decodeTableWord 32 0x00100030 = some (.descW0 0x00100030) ∧ decodeTableWord 32 0 = some (.descW4to7 0) := by
  decide

/-! ### The codec and operand assembly -/

/-- K2: all ones decode to the largest value of every field, and the reserved positions come back zero. -/
theorem test_k2_all_ones :
    decodeDescriptor (List.replicate 32 0xFF) =
      ⟨.invalid, true, 2047, true, .all, true, .all, true, true, .none, .none, .reservedSize, .relative, .relative,
        0xFFFFFFFF, 0xFFFFFFFF, .relative, true, 0x3FFFFFFF⟩ ∧
    encodeDescriptor (decodeDescriptor (List.replicate 32 0xFF)) =
      0xFB :: List.replicate 15 0xFF ++ List.replicate 16 0 := by decide

/-- K4: every field of an asymmetric descriptor. -/
theorem test_k4_fields :
    decodeDescriptor [0xF8, 0x7F, 0xAF, 0x0B, 0x10, 0xC0, 0x00, 0x40, 0x00, 0x04, 0x00, 0x20, 0x23, 0, 0, 0] =
      ⟨.transfer, true, 2047, false, .all, false, .all, false, true, .none, .x1, .word, .absolute, .absolute,
        0x4000C010, 0x20000400, .relative, true, 8⟩ := by decide

/-- K5 and A9: an unsupported kind; a link word. -/
theorem test_k5_and_link_word :
    (decodeDescriptor [0x51, 0, 0, 0, 1, 0, 0, 0, 2, 0, 0, 0]).structureKind = .synchronize ∧
    (decodeDescriptor [0x51, 0, 0, 0, 1, 0, 0, 0, 2, 0, 0, 0]).transferCount = 5 ∧
    (withLinkWord 0x20000102 .zero).linkAddress = 0x08000040 ∧ (withLinkWord 0x20000102 .zero).link = true ∧
    (withLinkWord 0x20000102 .zero).linkMode = .absolute := by decide

/-- A descriptor with the control word `w`. -/
def ctrl (w : Word) : TransferDescriptor := withControlWord w .zero

/-- A1 to A8: counts, block units, steps. -/
theorem test_operand_assembly :
    remaining (ctrl 0) = 1 ∧ remaining (ctrl 0x7FF0) = 2048 ∧
    transferUnits (ctrl 0x20070) = some 3 ∧ transferUnits (ctrl 0x20040) = some 3 ∧ transferUnits (ctrl 0x20010) = some 2 ∧
    transferUnits (ctrl 0x080F7FF0) = some 2048 ∧ transferUnits (ctrl 0x260010) = some 2 ∧
    addressStep .x4 4 = 16 ∧ addressStep .none 2 = 0 ∧ addressStep .x2 1 = 2 := by decide

/-- A9 to A11: link targets, forward, backward with wrap. -/
theorem test_link_targets :
    linkTarget { Channel.zero 0 with desc := withLinkWord 0x20000102 .zero } = 0x20000100 ∧
    linkTarget { Channel.zero 0 with desc := withLinkWord 0x00000023 .zero, descLoadAddr := 0x20000100 } = 0x20000120 ∧
    linkTarget { Channel.zero 0 with desc := withLinkWord 0xFFFFFFE3 .zero, descLoadAddr := 0x20000100 } = 0x200000E0 := by
  decide

/-- A12 and A13: identifier numbers, and numbers that differ in ignored bits. -/
theorem test_identifiers :
    wordOfSigId ⟨3, 1, false⟩ = 0x0031 ∧ wordOfSigId ⟨3, 1, true⟩ = 0x1031 ∧ wordOfSigId ⟨5, 2, false⟩ = 0x0052 ∧
    wordOfSigId ⟨63, 15, true⟩ = 0x13FF ∧ sigIdOfWord 0x0031 = ⟨3, 1, false⟩ ∧
    sigIdOfWord 0x0431 = ⟨3, 1, false⟩ ∧ sigIdOfWord 0x2031 = ⟨3, 1, false⟩ := by decide

/-! ### Small states -/

/-- The reset state with channel 0 changed. -/
def with0 (f : Channel → Channel) : State := State.reset.updateChan 0 f

/-- Channel 0 bound to `(source, signal)` with a descriptor of control word `w`, source `0x1000`, destination `0x2000`. -/
def bound (source : BitVec 6) (signal : BitVec 4) (w : Word) : State :=
  with0 fun c => { c with
    sourceSelector := source, signalSelector := signal
    desc := { ctrl w with sourceAddress := 0x1000, destinationAddress := 0x2000 } }

end Sys2Proof.Tests

namespace Sys2Proof.Machine

/-- With identifiers asserted. -/
def State.on (s : State) (k : List SignalId) : State := { s with asserted := k }

/-- With `b` stored at `a`. -/
def State.hold (s : State) (a : Word) (b : List Byte) : State := s.writeBytes a b

/-- Channel 0 enabled. -/
def State.live (s : State) : State := s.updateChan 0 fun c => { c with enabled := true }

/-- Channel 0 armed. -/
def State.armed (s : State) : State := s.updateChan 0 fun c => { c with pullArmed := true }

end Sys2Proof.Machine

namespace Sys2Proof.Tests

open Sys2Proof Sys2Proof.Machine

/-- Vector S1's start state. -/
def s1 : State := ((bound 3 1 0x00100030).on [⟨3, 1, false⟩]).hold 0x1000 [0xA1, 0xA2, 0xA3, 0xA4]

/-- A pull-classified channel with its signal on: program P3 before its tick. -/
def p3 : State := State.on (bound 5 2 0x30110050) [⟨5, 2, false⟩]

/-- Whether an operation answers a next state that passes `f`. -/
def gives (o : Out) (f : State → Bool) : Bool :=
  match o with
  | .next t => f t
  | .fault _ => false
  | .refused _ => false

/-- Whether it answers a refusal or fault. -/
def stops (o : Out) (r : Refusal) : Bool :=
  match o with
  | .refused x => decide (x = r)
  | .next _ => false
  | .fault _ => false

/-- The state an operation leaves. -/
def leaves (o : Out) : State :=
  match o with
  | .next t => t
  | .fault _ => State.reset
  | .refused _ => State.reset

/-- An operation that passes a test answers a next state. -/
theorem next_of_gives {o : Out} {f : State → Bool} (h : gives o f = true) : o = .next (leaves o) := by
  cases o with
  | next t => rfl
  | fault r => cases h
  | refused r => cases h

/-! ### Events -/

/-- S1: four one-byte copies, the end state, the latch. -/
theorem test_s1 : gives (exec (.wrEnable 1) s1) (fun t =>
    t.readReg (.ctrl 0) = 0x00100000 ∧ t.readReg (.srcaddr 0) = 0x1004 ∧ t.readReg (.dstaddr 0) = 0x2004 ∧
    t.readReg .done = 1 ∧ t.readReg .intflag = 1 ∧ t.readReg .status = 0 ∧ t.busLog.length = 4 ∧
    t.readBytes 0x2000 4 = [0xA1, 0xA2, 0xA3, 0xA4] ∧ t.irqWide = false) = true := by decide

/-- Z1: `RESET` clears the registers and the set and leaves memory and the log. -/
theorem test_reset : gives (exec .reset (p3.armed.hold 0x10 [7] |>.diag (.forceOnDisabled 1))) (fun t =>
    t.chan 0 = Channel.zero 0 ∧ t.asserted = [] ∧ t.readByte 0x10 = 7 ∧ t.diagLog = [.forceOnDisabled 1]) = true := by
  decide

/-- X2 and X1: the plain identifier starts the channel, the single one does not. -/
theorem test_sig_starts : gives (exec (.sig 0x0031 true) (bound 3 1 0x00800020).live) (fun t =>
    t.asserted = [⟨3, 1, false⟩] ∧ t.readReg .done = 1 ∧ t.busLog.length = 3) = true ∧
    gives (exec (.sig 0x1031 true) (bound 3 1 0x00800020).live) (fun t =>
      t.asserted = [⟨3, 1, true⟩] ∧ t.readReg .done = 0 ∧ t.busLog = [] ∧ t.signalOn 0 = false) = true := by decide

/-- X6 and X9: deassertion of one of two members; the scan goes on with the delivered identifier after channel 0's first copy
withdraws it. -/
theorem test_sig_scan : gives (exec (.sig 0x0031 false) (State.on (bound 3 1 0x20) [⟨3, 1, false⟩, ⟨3, 1, true⟩]).live)
      (fun t => t.asserted = [⟨3, 1, true⟩] ∧ t.busLog = []) = true ∧
    gives (exec (.sig 0x000 true)
      { State.reset with
        ch := State.reset.ch.map fun c => { c with enabled := true, desc := ctrl 0x20 }
        copyEnv := [[⟨1, .sig 0 false⟩]] }) (fun t =>
      t.asserted = [] ∧ t.busLog.length = 2 ∧ t.readReg .done = 0 ∧ t.readReg (.ctrl 0) = 0x10 ∧
      t.readReg (.ctrl 1) = 0x10) = true := by decide

/-- P3 step 6: the tick moves the six bytes and disarms. -/
theorem test_tick : gives (exec (.tick 0) (p3.armed.hold 0x1000 [1, 2, 3, 4, 5, 6])) (fun t =>
    t.readReg (.ctrl 0) = 0x30110000 ∧ t.readReg (.srcaddr 0) = 0x1006 ∧ t.readReg (.dstaddr 0) = 0x2000 ∧
    (t.chan 0).pullArmed = false ∧ t.readByte 0x2000 = 6 ∧ t.busLog.length = 3) = true := by decide

/-- Q2, Q3, Q4: signal off disarms, `requestDisable` waits, a done descriptor disarms; no copy. -/
theorem test_tick_corners :
    gives (exec (.tick 0) (bound 5 2 0).armed) (fun t => !(t.chan 0).pullArmed && t.busLog.isEmpty) = true ∧
    gives (exec (.tick 0) (p3.armed.updateChan 0 fun c => { c with requestDisable := true }))
      (fun t => (t.chan 0).pullArmed && t.busLog.isEmpty) = true ∧
    gives (exec (.tick 0) (p3.armed.updateChan 0 fun c => { c with done := true }))
      (fun t => !(t.chan 0).pullArmed && t.busLog.isEmpty) = true := by decide

/-! ### Controller-wide registers -/

/-- Z2: the reset descriptor runs. -/
theorem test_wrEnable : gives (exec (.wrEnable 1) State.reset) (fun t =>
    t.busLog = [.copy 0 0 1 1 1 1 1 1 1] ∧ t.readReg (.srcaddr 0) = 1 ∧ t.readReg (.dstaddr 0) = 1 ∧
    t.readReg .enable = 1 ∧ t.readReg .done = 1) = true := by decide

/-- G7: an enabled channel's bit is no change. -/
theorem test_wrEnable_again :
    gives (exec (.wrEnable 1) ((bound 0 0 0).live.updateChan 0 fun c => { c with done := true })) (fun t =>
      decide (t = (bound 0 0 0).live.updateChan 0 fun c => { c with done := true })) = true := by decide

/-- Every flag of channel 1 set, none of channel 0: the words that read. -/
def flags1 : State := State.reset.updateChan 1 fun c => { c with
  enabled := true, done := true, requestDisable := true, doneInterrupt := true, doneInterruptEnable := true
  inProgress := true }

theorem test_bank_reads :
    (leaves (exec .rdEnable flags1)).result = .word 2 ∧ (leaves (exec .rdStatus flags1)).result = .word 2 ∧
    (leaves (exec .rdDone flags1)).result = .word 2 ∧ (leaves (exec .rdIntflag flags1)).result = .word 2 ∧
    (leaves (exec .rdInten flags1)).result = .word 2 ∧ (leaves (exec .rdReqdisable flags1)).result = .word 2 ∧
    (leaves (exec .rdDisable flags1)).result = .word 0 ∧ (leaves (exec .rdForce flags1)).result = .word 0 ∧
    (leaves (exec .rdLinkload flags1)).result = .word 0 := by decide

/-- G5, I3, I1: `WR DISABLE`, `WR DONE`, `WR INTFLAG` and `WR INTEN` change their flag alone; `WR STATUS` nothing. -/
theorem test_bank_writes :
    gives (exec (.wrDisable 3) flags1) (fun t => t.readReg .enable = 0 ∧ (t.chan 1).done ∧ (t.chan 1).inProgress) = true ∧
    gives (exec (.wrDone 1) flags1) (fun t => t.readReg .done = 1 ∧ t.readReg .intflag = 2) = true ∧
    gives (exec (.wrIntflag 0) flags1) (fun t => t.readReg .intflag = 0 ∧ !t.irqWide ∧ t.readReg .inten = 2) = true ∧
    gives (exec (.wrInten 3) flags1) (fun t => t.readReg .inten = 3 ∧ t.irqWide ∧ !t.irqCh 0) = true ∧
    gives (exec (.wrStatus 3) flags1) (fun t => decide (t = flags1)) = true := by decide

/-- G6 and E2: a disabled channel is reported, an enabled one transfers one block. -/
theorem test_wrForce :
    gives (exec (.wrForce 1) (bound 0 0 0x20)) (fun t => t.diagLog = [.forceOnDisabled 0] ∧ t.busLog = []) = true ∧
    gives (exec (.wrForce 1) (bound 0 0 0x18020070).live) (fun t =>
      t.busLog = [.copy 0x1000 0x2000 12 4 4 4 8 0x100C 0x2018] ∧ t.readReg (.ctrl 0) = 0x18020040 ∧
      t.readReg (.srcaddr 0) = 0x100C ∧ t.readReg (.dstaddr 0) = 0x2018 ∧ t.readReg .done = 0) = true := by decide

/-- E9: a backward relative link is loaded and run. -/
theorem test_wrLinkload : gives (exec (.wrLinkload 1)
    (((with0 fun c => { c with desc := withLinkWord 0x20000100 .zero }).hold 0x20000100
      [0x08, 0, 0x20, 0, 0x10, 0, 0, 0, 0x20, 0, 0, 0, 0xE3, 0xFF, 0xFF, 0xFF]).hold 0x200000E0
      [8, 0, 0x20, 0, 0x11, 0, 0, 0, 0x21])) (fun t =>
    t.busLog = [.memRead 0x20000100 32, .copy 0x10 0x20 1 1 1 1 1 0x11 0x21, .memRead 0x200000E0 32,
      .copy 0x11 0x21 1 1 1 1 1 0x12 0x22] ∧
    (t.chan 0).descLoadAddr = 0x200000E0 ∧ t.readReg (.ctrl 0) = 0x00200008 ∧ t.readReg .done = 1 ∧
    t.readReg .enable = 0) = true := by decide

/-- G12: the catch-up of a disabled channel. -/
theorem test_wrReqdisable : gives (exec (.wrReqdisable 0)
    ((State.on (bound 0 0 0x20) [⟨0, 0, false⟩]).updateChan 0 fun c => { c with requestDisable := true })) (fun t =>
    t.readReg .reqdisable = 0 ∧ t.readReg .done = 1 ∧ t.busLog.length = 3 ∧ t.readReg .enable = 0) = true := by decide

/-! ### Per-channel registers -/

theorem test_channel_words :
    gives (exec (.wrReqsel 1 3 1) State.reset) (fun t => (leaves (exec (.rdReqsel 1) t)).result = .fields 3 1) = true ∧
    gives (exec (.wrConfig 1 0xDEADBEEF) State.reset) (fun t =>
      (leaves (exec (.rdConfig 1) t)).result = .word 0xDEADBEEF) = true ∧
    gives (exec (.wrLoop 1 7) State.reset) (fun t => (leaves (exec (.rdLoop 1) t)).result = .word 7) = true ∧
    gives (exec (.wrSrcaddr 1 0x1000) State.reset) (fun t => (leaves (exec (.rdSrcaddr 1) t)).result = .word 0x1000 ∧
      (t.chan 0).desc = .zero) = true ∧
    gives (exec (.wrDstaddr 1 0x2000) State.reset) (fun t => (leaves (exec (.rdDstaddr 1) t)).result = .word 0x2000) = true ∧
    gives (exec (.wrLink 1 0x20000102) State.reset) (fun t =>
      (leaves (exec (.rdLink 1) t)).result = .word 0x20000102) = true := by decide

/-- G8: the read-only bits, bit 2 and bit 3. -/
theorem test_wrCtrl : gives (exec (.wrCtrl 0 0xFFFFFFF7) (bound 0 0 0x00100030)) (fun t =>
    (leaves (exec (.rdCtrl 0) t)).result = .word 0x3FFFFFF0 ∧ t.busLog = []) = true := by decide

/-- A `CTRL` write with `autoRequest` loads the linked descriptor over what it stored. -/
theorem test_wrCtrl_autoRequest : gives (exec (.wrCtrl 0 0x00100038)
    ((with0 fun c => { c with desc := withLinkWord 0x400 .zero }).hold 0x400 [0x51, 0, 0, 0, 1, 0, 0, 0, 2])) (fun t =>
    t.readReg (.ctrl 0) = 0x51 ∧ (t.chan 0).descLoadAddr = 0x400 ∧ t.diagLog = []) = true := by decide

/-! ### Address banks -/

/-- G1, G2, G3, G9: the four banks at the addresses of the reset state's offsets. -/
theorem test_banks :
    gives (exec (.wrSet 0x014 2) ((with0 fun c => { c with doneInterruptEnable := true }))) (fun t =>
      t.readReg .inten = 3) = true ∧
    gives (exec (.wrClr 0x010 2) (State.reset.writeIntflag 3)) (fun t => t.readReg .intflag = 1) = true ∧
    gives (exec (.wrTgl 0x014 3) (State.reset.writeInten 2)) (fun t => t.readReg .inten = 1) = true ∧
    gives (exec (.wrSet 0x110 0x0F) (bound 0 0 0)) (fun t => t.readReg (.srcaddr 0) = 0x100F) = true ∧
    gives (exec (.wrPlain 0x100 0x31) State.reset) (fun t => (t.chan 0).sourceSelector = 3 ∧
      (t.chan 0).signalSelector = 1) = true := by decide

/-- G4, G10: `WR.CLR ENABLE` disables nothing; reads through every bank. -/
theorem test_banks_enable_and_reads :
    gives (exec (.wrClr 0x000 1) (bound 0 0 0).live) (fun t => t.readReg .enable = 1) = true ∧
    (leaves (exec (.rdAny 3 0x110) (bound 0 0 0))).result = .word 0x1000 ∧
    (leaves (exec (.rdAny 1 0x018) flags1)).result = .word 0 := by decide

/-! ### Words and procedures as operations -/

theorem test_formats :
    (leaves (exec (.descW0 0x00100030) State.reset)).result = .desc (ctrl 0x00100030) ∧
    (leaves (exec (.descW1 5) State.reset)).result = .desc { TransferDescriptor.zero with sourceAddress := 5 } ∧
    (leaves (exec (.descW2 5) State.reset)).result = .desc { TransferDescriptor.zero with destinationAddress := 5 } ∧
    (leaves (exec (.descW3 0x23) State.reset)).result = .desc (withLinkWord 0x23 .zero) ∧
    (leaves (exec (.descW4to7 0) State.reset)).result = .desc .zero ∧
    (leaves (exec (.sigId 0x1431) State.reset)).result = .sigId ⟨3, 1, true⟩ := by decide

theorem test_codec_operations :
    (leaves (exec (.decodeDesc k3) State.reset)).result =
      .desc { ctrl 0x00100030 with sourceAddress := 0x1000, destinationAddress := 0x2000 } ∧
    (leaves (exec (.encodeDesc (decodeDescriptor k3)) State.reset)).result = .bytes k3 ∧
    stops (exec (.decodeDesc []) State.reset) .illFormed = true := by decide

/-- Q1 and Q6: a pull pair answers true; an unknown pair is reported and does not pull. -/
theorem test_shouldPull :
    (leaves (exec (.shouldPull 0) p3)).result = .flag true ∧
    (leaves (exec (.shouldPull 0) (bound 9 9 0))).result = .flag false ∧
    (leaves (exec (.shouldPull 0) (bound 9 9 0))).diagLog = [.unknownPullPair 0 9 9] := by decide

/-- T5: a start attempt of a pull channel arms and moves nothing; of an Edge channel it transfers. -/
theorem test_attemptStart :
    gives (exec (.attemptStart 0) p3) (fun t => (t.chan 0).pullArmed ∧ t.busLog = []) = true ∧
    gives (exec (.attemptStart 0) (bound 3 1 0x20)) (fun t => !(t.chan 0).pullArmed ∧ t.busLog.length = 1) = true := by
  decide

/-- E1: the last block is short. -/
theorem test_executeActivation : gives (exec (.executeActivation 0) (State.on (bound 0 0 0x18020070) [⟨0, 0, false⟩]))
    (fun t => t.busLog = [.copy 0x1000 0x2000 12 4 4 4 8 0x100C 0x2018, .copy 0x100C 0x2018 12 4 4 4 8 0x1018 0x2030,
        .copy 0x1018 0x2030 8 4 4 4 8 0x1020 0x2040] ∧
      t.readReg (.ctrl 0) = 0x18020000 ∧ t.readReg .done = 1) = true := by decide

/-- N3: software's write of SRCADDR inside the copy is overwritten from the snapshot, its write of DONE ends the loop. -/
theorem test_nested_writes : gives (exec (.executeActivation 0)
    { bound 0 0 0x20 with copyEnv := [[⟨1, .wr .plain (.srcaddr 0) 0x9000⟩, ⟨1, .wr .plain .done 1⟩]] }) (fun t =>
    t.readReg (.srcaddr 0) = 0x1001 ∧ t.readReg (.ctrl 0) = 0x10 ∧ t.readReg .done = 1 ∧ t.busLog.length = 1 ∧
    t.copyEnv = []) = true := by decide

/-- E4: a copy whose source wraps; E7: `All` mode keeps count and addresses. -/
theorem test_minorTransfer :
    gives (exec (.minorTransfer 0) (((bound 0 0 0x00030030).hold 0xFFFFFFFE [1, 2, 3, 4]).updateDesc 0 fun d =>
      { d with sourceAddress := 0xFFFFFFFE, destinationAddress := 0x10 })) (fun t =>
      t.readBytes 0x10 4 = [1, 2, 3, 4] ∧ t.readReg (.srcaddr 0) = 2 ∧ t.readReg (.dstaddr 0) = 0x14 ∧
      t.readReg (.ctrl 0) = 0x00030000 ∧ t.readReg .done = 1) = true ∧
    gives (exec (.minorTransfer 0) (bound 0 0 0x00260010)) (fun t =>
      t.busLog = [.copy 0x1000 0x2000 2 1 1 1 1 0x1002 0x2002] ∧ t.readReg (.ctrl 0) = 0x00260010 ∧
      t.readReg (.srcaddr 0) = 0x1000 ∧ t.readReg .done = 1 ∧ t.diagLog = []) = true := by decide

/-- E6 and E5: the unsupported codes and kinds. -/
theorem test_minorTransfer_unsupported :
    (leaves (exec (.minorTransfer 0) (bound 0 0 0x0C000010))).diagLog = [.unsupportedUnitSize 0] ∧
    (leaves (exec (.minorTransfer 0) (bound 0 0 0x00060010))).diagLog = [.unsupportedBlockSize 0 .reservedBlock6] ∧
    (leaves (exec (.minorTransfer 0) (bound 0 0 0x00080010))).diagLog = [.unsupportedBlockSize 0 .reservedBlock8] ∧
    (leaves (exec (.minorTransfer 0) (bound 0 0 0x51))).diagLog = [.unsupportedKind 0 .synchronize] := by decide

/-- R186: latched once, and not if already done. -/
theorem test_setDone :
    gives (exec (.setDone 0) (bound 0 0 0x00100000)) (fun t => t.readReg .done = 1 ∧ t.readReg .intflag = 1) = true ∧
    gives (exec (.setDone 0) ((bound 0 0 0x00100000).writeDone 1)) (fun t => decide (t.readReg .intflag = 0)) = true := by
  decide

theorem test_chainLoad : gives (exec (.chainLoad 0)
    ((with0 fun c => { c with desc := withLinkWord 0x400 .zero }).hold 0x400 k3)) (fun t =>
    t.readReg (.ctrl 0) = 0x00100030 ∧ t.readReg (.dstaddr 0) = 0x2000 ∧ (t.chan 0).descLoadAddr = 0x400 ∧
    t.busLog = [.memRead 0x400 32]) = true := by decide

/-- Loaded without `autoRequest` and with the signal off: no start; with the signal on: a start. -/
theorem test_linkLoadOp :
    gives (exec (.linkLoadOp 0) ((with0 fun c => { c with desc := withLinkWord 0x400 .zero }).hold 0x400 k3))
      (fun t => decide (t.busLog = [.memRead 0x400 32])) = true ∧
    gives (exec (.linkLoadOp 0) (State.on ((with0 fun c => { c with desc := withLinkWord 0x400 .zero }).hold 0x400 k3)
      [⟨0, 0, false⟩])) (fun t => decide (t.busLog.length = 5)) = true := by decide

/-- R211 and R215's worked examples. -/
theorem test_crossbar_queries :
    (leaves (exec (.matchesId 0 ⟨3, 1, true⟩) (bound 3 1 0x00800020))).result = .flag false ∧
    (leaves (exec (.matchesId 0 ⟨3, 1, false⟩) (bound 3 1 0x00800020))).result = .flag true ∧
    (leaves (exec (.matchesId 0 ⟨3, 2, false⟩) (bound 3 1 0x20))).result = .flag false ∧
    (leaves (exec (.signalIsOn 0) (State.on (bound 3 1 0x20) [⟨3, 1, true⟩]))).result = .flag true ∧
    (leaves (exec (.signalIsOn 0) (State.on (bound 3 1 0x00800020) [⟨3, 1, true⟩]))).result = .flag false := by decide

/-- I4: the outputs of two channels. -/
theorem test_updateInterrupts :
    (leaves (exec .updateInterrupts ((flags1).updateChan 0 fun c => { c with doneInterrupt := true }))).result =
      .irq (some 2) (some true) := by decide

/-! ### Steps and refusals -/

/-- A step takes one packet; what is no packet is refused; an empty stream is idle. -/
theorem test_step :
    gives (step { State.reset with pending := [1, 0x97, 5, 0, 0, 0, 9] }) (fun t =>
      t.pending = [9] ∧ (t.chan 1).config = 5) = true ∧
    stops (step { State.reset with pending := [0, 0xC0] }) (.badOperation .reservedClass) = true ∧
    gives (step State.reset) (fun t => decide (t = State.reset)) = true := by decide

/-- `withFetchWord` makes the very next step run the word's operation. -/
theorem test_withFetchWord :
    gives (step (State.reset.withFetchWord 16 0x3014)) (fun t => decide (t = State.reset)) = true ∧
    gives (step (State.reset.withFetchWord 32 0x30)) (fun t => decide (t.result = .desc (ctrl 0x30))) = true := by decide

theorem test_stops :
    stops (exec (.tick 0) p3) .timerNotArmed = true ∧ stops (exec (.tick 2) p3) .noSuchChannel = true ∧
    stops (exec (.rdAny 0 0xFFC) p3) .unmappedOffset = true ∧
    stops (exec (.executeActivation 0)
      { bound 0 0 0 with params := { Config.defaultParams with hasAliasBanks := false }
                         copyEnv := [[⟨0, .rd .set .done⟩]] }) .noAliasBanks = true := by decide

/-! ### Witnesses: a concrete state and operands that meet the hypotheses of each obligation, clause by clause -/

theorem witness_DecodeReadsEncodedOperation :
    (Instr.wrCtrl 31 0xFFFFFFFF).wellFormed = true ∧ (Instr.decodeDesc k3).wellFormed = true := by decide

theorem witness_DecodedOperationIsWellFormed : decode [31, 0x82, 7] = .ok (.tick 31, [7]) := by decide

/-- A word with bit 2 set and one without; a tail that is zero and one that is not. -/
theorem witness_DescriptorCodecIsReversible :
    k3.length = 32 ∧ (wordAt k3 0).getLsbD 2 = false ∧ k3.drop 16 = List.replicate 16 0 ∧
    (wordAt (List.replicate 32 0xFF) 0).getLsbD 2 = true := by decide

theorem witness_CodecProceduresComplete : k3.length = 32 := by decide

theorem witness_StepRunsTheDecodedOperation :
    decode { State.reset with pending := [31, 0x82, 7] }.pending = .ok (.tick 31, [7]) ∧ State.reset.pending = [] ∧
    { State.reset with pending := [0, 0xC0] }.pending ≠ [] ∧
    decode { State.reset with pending := [0, 0xC0] }.pending = .error .reservedClass := by decide

/-- S1's start state with its `WR ENABLE, 1` pending. -/
def s1Pending : State := { s1 with pending := [0, 0x83, 1, 0, 0, 0] }

theorem s1Pending_good : s1Pending.Good := ⟨by decide, by decide, by decide, by decide⟩

theorem witness_StepKeepsGood : s1Pending.Good ∧ step s1Pending = .next (leaves (step s1Pending)) :=
  ⟨s1Pending_good, next_of_gives (f := fun t => decide (t.busLog.length = 4)) (by decide)⟩

theorem witness_ChannelsAreFixed : step s1Pending = .next (leaves (step s1Pending)) :=
  next_of_gives (f := fun t => decide (t.busLog.length = 4)) (by decide)

/-- One address the copy stores to and one it does not. -/
theorem witness_OnlyCopiesStoreToMemory :
    exec (.executeActivation 0) s1 = .next (leaves (exec (.executeActivation 0) s1)) ∧
    storesTo (.copy 0x1000 0x2000 1 1 1 1 1 0x1001 0x2001) 0x2000 ∧
    ¬ storesTo (.memRead 0x2000 32) 0x2000 :=
  ⟨next_of_gives (f := fun t => decide (t.busLog.length = 4)) (by decide), ⟨0, 0, by decide⟩, fun h => h⟩

theorem witness_EngineLeavesSoftwareOnlyFields :
    engineOp (.executeActivation 0) = true ∧ s1.quiet ∧
    exec (.executeActivation 0) s1 = .next (leaves (exec (.executeActivation 0) s1)) ∧
    ((s1.writeIntflag 2).chan 1).doneInterrupt = true :=
  ⟨rfl, by decide, next_of_gives (f := fun t => decide (t.busLog.length = 4)) (by decide), by decide⟩

/-- The smallest and the largest number of channels the parameters of the reset state allow. -/
theorem witness_InitialStateIsGoodAndReset : Config.defaultParams.wf 2 ∧ Config.defaultParams.wf 32 := by decide

theorem witness_ResetClearsEverything :
    0 < s1.numChannels ∧ s1.hasReg (.ctrl 1) = true ∧ s1.hasReg .done = true ∧ s1.hasReg (.ctrl 2) = false := by decide

theorem witness_StatusIsReadOnly : s1Pending.Good ∧ (∃ i, i < flags1.numChannels ∧ (flags1.chan i).inProgress = true) :=
  ⟨s1Pending_good, 1, by decide⟩

/-- Channel 0 is pull-classified and disabled; channel 1's bit is 0. -/
theorem witness_EnableArmsPullChannels :
    (∀ i, i < p3.numChannels → (1 : Word).getLsbD i = true → (p3.chan i).enabled = false → p3.pulls i = true) ∧
    (1 : Word).getLsbD 0 = true ∧ (p3.chan 0).enabled = false := by decide

/-- One Edge channel, one channel whose pair is unknown. -/
theorem witness_EnableServesNewChannelsInTurn :
    ∀ q ∈ [(s1, some false), (bound 9 9 0, none)],
      0 < q.1.numChannels ∧ (1 : Word).getLsbD 0 = true ∧ (q.1.chan 0).enabled = false ∧
      (∀ k, k < q.1.numChannels → k ≠ 0 → (1 : Word).getLsbD k = true → (q.1.chan k).enabled = true) ∧
      q.1.boundClass 0 = q.2 := by decide

/-- Channel 0 enabled and pull-classified, channel 1 disabled, both bits 1. -/
theorem witness_ForceArmsOrReports :
    (∀ i, i < p3.live.numChannels → (3 : Word).getLsbD i = true → (p3.live.chan i).enabled = true →
      p3.live.pulls i = true) ∧
    (p3.live.chan 0).enabled = true ∧ (p3.live.chan 1).enabled = false := by decide

theorem witness_ForceServesChannelsInTurn :
    0 < s1.live.numChannels ∧ (∀ k, k < s1.live.numChannels → ((1 : Word).getLsbD k = true ↔ k = 0)) ∧
    (s1.live.chan 0).enabled = true := by decide

/-- One channel; every channel request-disabled. -/
theorem witness_LinkloadServesChannelsInTurn :
    (0 < s1.numChannels ∧ ∀ k, k < s1.numChannels → ((1 : Word).getLsbD k = true ↔ k = 0)) ∧
    (∀ i, i < (s1.reqdisableStores 3).numChannels → (3 : Word).getLsbD i = true →
      ((s1.reqdisableStores 3).chan i).requestDisable = true) ∧ 2 = (s1.reqdisableStores 3).numChannels := by decide

/-- One released channel with its signal on, Edge; released channels with a signal, all pull-classified. -/
theorem witness_ReqdisableCatchesUp :
    (0 < (s1.reqdisableStores 1).numChannels ∧ (s1.reqdisableStores 1).signalOn 0 = true ∧
      (∀ k, k < (s1.reqdisableStores 1).numChannels →
        (((s1.reqdisableStores 1).chan k).requestDisable = true ∧ (0 : Word).getLsbD k = false ↔ k = 0)) ∧
      (s1.reqdisableStores 1).pulls 0 = false) ∧
    (∀ i, i < (p3.reqdisableStores 1).numChannels → ((p3.reqdisableStores 1).chan i).requestDisable = true →
      (0 : Word).getLsbD i = false → (p3.reqdisableStores 1).signalOn i = true → (p3.reqdisableStores 1).pulls i = true) ∧
    ((p3.reqdisableStores 1).chan 0).requestDisable = true ∧ (p3.reqdisableStores 1).signalOn 0 = true := by decide

/-- The channel of the per-channel register statements, at both ends of the range. -/
theorem witness_ReqselStoresTwoFields : 0 < s1.numChannels ∧ 1 < s1.numChannels := by decide
theorem witness_OpaqueWordsReadBack : 0 < s1.numChannels ∧ 1 < s1.numChannels := by decide
theorem witness_AddressRegistersReadBack : 0 < s1.numChannels ∧ 1 < s1.numChannels := by decide
theorem witness_LinkWordReadsBack : 0 < s1.numChannels ∧ 1 < s1.numChannels := by decide

theorem witness_CtrlWriteStoresThenLinkLoads :
    1 < s1.numChannels ∧ (0x30 : Word).getLsbD 3 = false ∧ (0x38 : Word).getLsbD 3 = true := by decide

theorem witness_CtrlReadShowsLiveFields : 1 < s1.numChannels ∧ (0xFFFFFFF7 : Word).getLsbD 3 = false := by decide

/-- A controller without alias banks, with a register in each quarter of its 14-bit space. -/
def noAlias : State :=
  { s1 with params := { Config.defaultParams with
      hasAliasBanks := false
      regOffset := [(.inten, 0x0014), (.done, 0x1014), (.config 1, 0x2014), (.reqsel 0, 0x3014)] } }

/-- With alias banks, and without them in each bank. -/
theorem witness_MappedOffsetIsItsRegister :
    (s1.params.wf s1.numChannels ∧ s1.params.hasAliasBanks = true ∧ (RegName.config 1, (0x124 : BitVec 12).toNat) ∈
      s1.params.regOffset) ∧
    (noAlias.params.wf noAlias.numChannels ∧ noAlias.params.hasAliasBanks = false) ∧
    ∀ q ∈ [((0 : BitVec 2), RegName.inten), (1, .done), (2, .config 1), (3, .reqsel 0)],
      (q.2, (q.1 ++ (0x014 : BitVec 12)).toNat) ∈ noAlias.params.regOffset := by decide

theorem witness_BankWriteIsPlainWriteOfCombination : s1.maps 0x014 .inten ∧ s1.hasReg .inten = true := by decide

/-- One register of each clause; the written bit 3 of `CTRL` is 0, and the released channel is pull-classified. -/
theorem witness_BankWritesStoreTheCombination :
    (∀ q ∈ [((0x124 : BitVec 12), RegName.config 1), (0x128, .loop 1), (0x130, .srcaddr 1), (0x134, .dstaddr 1),
      (0x138, .link 1), (0x10C, .ctrl 0), (0x120, .reqsel 1), (0x00C, .done), (0x010, .intflag), (0x014, .inten)],
      s1.maps q.1 q.2 ∧ s1.hasReg q.2 = true) ∧
    ((s1.readReg (.ctrl 0) ||| 0x50).getLsbD 3 = false ∧ s1.params.wf s1.numChannels) ∧
    (p3.reqdisableStores 1).maps 0x020 .reqdisable ∧
    (∀ i, i < (p3.reqdisableStores 1).numChannels → ((p3.reqdisableStores 1).chan i).requestDisable = true →
      ((p3.reqdisableStores 1).readReg .reqdisable &&& ~~~(1 : Word)).getLsbD i = false →
      (p3.reqdisableStores 1).signalOn i = true → (p3.reqdisableStores 1).pulls i = true) ∧
    ((p3.reqdisableStores 1).chan 0).requestDisable = true :=
  ⟨by decide, by decide, by decide, by decide, by decide⟩

theorem witness_ReadThroughAnyBank : s1.maps 0x12C (.ctrl 1) ∧ s1.hasReg (.ctrl 1) = true := by decide

/-- A member and a non-member. -/
theorem witness_DeassertionOnlyRemoves : sigIdOfWord 0x0031 ∈ s1.asserted ∧ sigIdOfWord 0x1031 ∉ s1.asserted := by decide

theorem witness_AssertionArmsMatchingPullChannels :
    (∀ i, i < p3.live.numChannels → startable (p3.live.chan i) (sigIdOfWord 0x52) = true → p3.live.pulls i = true) ∧
    startable (p3.live.chan 0) (sigIdOfWord 0x52) = true := by decide

/-- One Edge channel, one channel whose pair is unknown. -/
theorem witness_AssertionServesChannelsInTurn :
    ∀ q ∈ [(s1.live, (0x31 : Word), some false), ((bound 9 9 0).live, 0x99, none)],
      0 < q.1.numChannels ∧ q.1.quiet ∧
      (∀ k, k < q.1.numChannels → (startable (q.1.chan k) (sigIdOfWord q.2.1) = true ↔ k = 0)) ∧
      q.1.boundClass 0 = q.2.2 := by decide

/-- An enabled channel bound to (3, 1) that ignores single requests. -/
def ignoring : State := (bound 3 1 0x00800020).live

/-- The identifier with the single flag and without it. -/
theorem witness_SingleRequestsAreSuppressed :
    (0 < ignoring.numChannels ∧ ignoring.quiet ∧ (ignoring.chan 0).desc.ignoreSingleRequests = true ∧
      (ignoring.chan 0).enabled = true ∧ (ignoring.chan 0).requestDisable = false) ∧
    ((ignoring.chan 0).sourceSelector = (0x1031 : Word).extractLsb' 4 6 ∧
      (ignoring.chan 0).signalSelector = (0x1031 : Word).extractLsb' 0 4 ∧
      (ignoring.chan 0).sourceSelector = (0x0031 : Word).extractLsb' 4 6 ∧
      (ignoring.chan 0).signalSelector = (0x0031 : Word).extractLsb' 0 4) ∧
    ∀ k, k < ignoring.numChannels → k ≠ 0 →
      startable (ignoring.chan k) (sigIdOfWord 0x1031) = false ∧ startable (ignoring.chan k) (sigIdOfWord 0x0031) = false :=
  ⟨by decide, by decide, by decide⟩

theorem witness_SignalIsOnWhenAMemberMatches : 1 < s1.numChannels ∧ s1.signalOn 0 = true ∧ s1.signalOn 1 = false := by
  decide

/-- The three classes: Pull, Edge, Unknown; the entry of the Pull pair, with entries before and after it, and no entry. -/
theorem witness_ShouldPullLooksUpTheTable :
    (0 < p3.numChannels ∧ p3.boundClass 0 = some true ∧ 0 < s1.numChannels ∧ s1.boundClass 0 = some false ∧
      0 < (bound 9 9 0).numChannels ∧ (bound 9 9 0).boundClass 0 = none) ∧
    (p3.params.shouldPullTable = p3.params.shouldPullTable.take 4 ++ ⟨5, 2, true⟩ :: p3.params.shouldPullTable.drop 5 ∧
      (p3.chan 0).sourceSelector = 5 ∧ (p3.chan 0).signalSelector = 2 ∧
      ∀ x ∈ p3.params.shouldPullTable.take 4,
        ¬ (x.source = (p3.chan 0).sourceSelector ∧ x.signal = (p3.chan 0).signalSelector)) ∧
    ∀ x ∈ (bound 9 9 0).params.shouldPullTable,
      ¬ (x.source = ((bound 9 9 0).chan 0).sourceSelector ∧ x.signal = ((bound 9 9 0).chan 0).signalSelector) :=
  ⟨by decide, by decide, by decide⟩

theorem witness_AttemptStartArmsOrActivates :
    0 < p3.numChannels ∧ p3.boundClass 0 = some true ∧ 0 < s1.numChannels ∧ s1.boundClass 0 = some false ∧
    0 < (bound 9 9 0).numChannels ∧ (bound 9 9 0).boundClass 0 = none := by decide

/-- Signal off; request-disabled with the signal on; eligible, with the activation's next state. -/
theorem witness_TickActivatesThenDisarms :
    (0 < (bound 5 2 0).armed.numChannels ∧ ((bound 5 2 0).armed.chan 0).pullArmed = true ∧
      (bound 5 2 0).armed.signalOn 0 = false) ∧
    (((p3.armed.reqdisableStores 1).chan 0).requestDisable = true ∧ (p3.armed.reqdisableStores 1).signalOn 0 = true) ∧
    (p3.armed.chan 0).pullArmed = true ∧ (p3.armed.chan 0).requestDisable = false ∧ p3.armed.signalOn 0 = true ∧
    exec (.executeActivation 0) p3.armed = .next (leaves (exec (.executeActivation 0) p3.armed)) :=
  ⟨by decide, by decide, by decide, by decide, by decide,
    next_of_gives (f := fun t => decide (t.busLog.length = 3)) (by decide)⟩

/-- Not done with the gate set, and already done. -/
theorem witness_SetDoneLatchesOncePerCompletion :
    0 < s1.numChannels ∧ (s1.chan 0).done = false ∧ (s1.chan 0).desc.doneInterruptEnable = true ∧
    ((s1.writeDone 1).chan 0).done = true := by decide

/-- Relative and absolute links. -/
theorem witness_ChainLoadFetchesAndDecodes :
    0 < s1.numChannels ∧ (s1.chan 0).desc.linkMode = .absolute ∧
    ((s1.writeLink 0 0x23).chan 0).desc.linkMode = .relative := by decide

/-- Memory of zeros: the loaded descriptor has no `autoRequest`; the signal is off (ends there) or on (starts). -/
theorem witness_LinkLoadLoadsThenMayStart :
    0 < s1.numChannels ∧ ((s1.chainLoad 0).chan 0).requestDisable = false ∧ (s1.chainLoad 0).signalOn 0 = true ∧
    (((bound 3 1 0).chainLoad 0).chan 0).desc.autoRequest = false ∧ ((bound 3 1 0).chainLoad 0).signalOn 0 = false := by
  decide

/-- A short last block, a whole block, `All` mode, the largest transfer; the code `all` in `Block` mode, both reserved codes. -/
theorem witness_UnitsOfAMinorTransfer :
    (transferUnits (ctrl 0x20010) = some 2 ∧ unitBytes (ctrl 0x20010).unitSize = some 1) ∧
    (transferUnits (ctrl 0x20070) = some 3 ∧ (ctrl 0x20070).requestMode = .block) ∧
    (transferUnits (ctrl 0x08207FF0) = some 2048 ∧ (ctrl 0x08207FF0).requestMode = .all ∧
      unitBytes (ctrl 0x08207FF0).unitSize = some 4) ∧
    ((ctrl 0x0F0000).requestMode = .block ∧ (ctrl 0x0F0000).blockSize = .all) ∧
    (ctrl 0x060000).blockSize = .reservedBlock6 ∧ (ctrl 0x080000).blockSize = .reservedBlock8 := by decide

/-- The three unsupported configurations. -/
theorem witness_UnsupportedTransferOnlyReports :
    ((bound 0 0 0x51).chan 0).desc.structureKind ≠ .transfer ∧
    (((bound 0 0 0x0C000010).chan 0).desc.structureKind = .transfer ∧
      ((bound 0 0 0x0C000010).chan 0).desc.unitSize = .reservedSize) ∧
    (((bound 0 0 0x00060010).chan 0).desc.structureKind = .transfer ∧
      ((bound 0 0 0x00060010).chan 0).desc.unitSize ≠ .reservedSize ∧
      ((bound 0 0 0x00060010).chan 0).desc.requestMode = .block ∧
      ((bound 0 0 0x00060010).chan 0).desc.blockSize = .reservedBlock6) := by decide

/-- Vector N3: channel 0 with `ops` nested in its next copy after `k` units. -/
def scripted (k : Nat) (ops : List EnvOp) : State := { bound 0 0 0x20 with copyEnv := [ops.map fun op => ⟨k, op⟩] }

/-- `scripted` when the nested operations run: the copy is on the BUS port, and the zeros it moves change no memory. -/
def scriptedInside (k : Nat) (ops : List EnvOp) : State :=
  { scripted k ops with busLog := [.copy 0x1000 0x2000 1 1 1 1 1 0x1001 0x2001], copyEnv := [] }

/-- The nested writes of vector N3. -/
def n3 : List EnvOp := [.wr .plain (.srcaddr 0) 0x9000, .wr .plain .done 1]

/-- No nested operation: `Block` with a block left over, `Block` with the last block, and `All`. Nested operations at the copy's
start, at its end and past it; a nested operation that stops. -/
theorem witness_MinorTransferCopiesAndUpdates :
    (0 < s1.numChannels ∧ s1.quiet ∧ (s1.chan 0).desc.structureKind = .transfer ∧
      unitBytes (s1.chan 0).desc.unitSize = some 1 ∧
      (transferUnits (s1.chan 0).desc = some 1 ∧ (s1.chan 0).desc.requestMode = .block ∧ 1 < remaining (s1.chan 0).desc) ∧
      (transferUnits ((bound 0 0 0x20).chan 0).desc = some 1 ∧ transferUnits ((bound 0 0 0).chan 0).desc = some 1 ∧
        remaining ((bound 0 0 0).chan 0).desc = 1) ∧
      (transferUnits ((bound 0 0 0x00200030).chan 0).desc = some 4 ∧
        ((bound 0 0 0x00200030).chan 0).desc.requestMode = .all)) ∧
    (∀ k ∈ [0, 1, 9], 0 < (scripted k n3).numChannels ∧ (scripted k n3).supports 0 1 1 ∧ (scripted k n3).mem.wf ∧
      (scripted k n3).copyEnv = (n3.map fun op => ⟨k, op⟩) :: []) ∧
    envActs n3 (scriptedInside 1 n3) = .next (leaves (envActs n3 (scriptedInside 1 n3))) ∧
    stops (envActs [.rd .plain (.ctrl 2)] (scriptedInside 1 [.rd .plain (.ctrl 2)])) .noSuchChannel = true :=
  ⟨by decide, by decide, next_of_gives (f := fun t => decide (t.readReg .done = 1)) (by decide), by decide⟩

/-- Three units with the increments `x2` and `None`, and one with `x1` and `x1`; the destination is apart from the source. -/
theorem witness_MinorTransferMovesABuffer :
    (∀ q ∈ [(bound 0 0 0x31020020, 3), (s1, 1)],
      0 < q.1.numChannels ∧ q.1.quiet ∧ q.1.mem.wf ∧ q.1.supports 0 q.2 1 ∧
      ∀ j, j < q.2 → ∀ k, k < q.2 → ∀ b, b < 1 → ∀ e, e < 1 →
        (q.1.chan 0).desc.destinationAddress +
            BitVec.ofNat 32 (addressStep (q.1.chan 0).desc.destinationIncrement 1 * j) + BitVec.ofNat 32 b ≠
          (q.1.chan 0).desc.sourceAddress + BitVec.ofNat 32 (addressStep (q.1.chan 0).desc.sourceIncrement 1 * k) +
            BitVec.ofNat 32 e) ∧
    ((bound 0 0 0x31020020).chan 0).desc.destinationIncrement = .none ∧
    (s1.chan 0).desc.destinationIncrement ≠ .none := by decide

theorem witness_DroppedActivationChangesNothing :
    0 < s1.numChannels ∧ ((s1.writeDone 1).chan 0).done = true ∧ ((s1.guard 0 true).chan 0).inProgress = true := by decide

/-- Channel 0 with the control word `w` and a link to `0x400`, where `b` is stored. -/
def linked (w : Word) (b : List Byte) : State :=
  ((bound 0 0 w).updateDesc 0 fun d => { d with link := true, linkAddress := 0x100 }).hold 0x400 b

/-- What a chain-load after one minor transfer leaves. -/
def linkedOn (w : Word) (b : List Byte) : State := (leaves (exec (.minorTransfer 0) (linked w b))).chainOn 0

/-- A block left over and no request; the last block and `All` mode without a link; a link to a descriptor without
`autoRequest`. -/
theorem witness_ActivationOfOneTransfer :
    (∀ q ∈ [(bound 0 0 0x20, 1), (bound 0 0 0, 1), (bound 0 0 0x00200030, 4), (linked 0 k3, 1)],
      0 < q.1.numChannels ∧ q.1.quiet ∧ (q.1.chan 0).inProgress = false ∧ (q.1.chan 0).done = false ∧
      q.1.supports 0 q.2 1 ∧ q.1.signalOn 0 = false) ∧
    (((bound 0 0 0x20).chan 0).desc.requestMode = .block ∧ 1 < remaining ((bound 0 0 0x20).chan 0).desc) ∧
    (remaining ((bound 0 0 0).chan 0).desc = 1 ∧ ((bound 0 0 0).chan 0).desc.link = false) ∧
    (((bound 0 0 0x00200030).chan 0).desc.requestMode = .all ∧ ((bound 0 0 0x00200030).chan 0).desc.link = false) ∧
    (remaining ((linked 0 k3).chan 0).desc = 1 ∧ ((linked 0 k3).chan 0).desc.link = true ∧
      ((linkedOn 0 k3).chan 0).desc.autoRequest = false ∧ (linkedOn 0 k3).signalOn 0 = false) :=
  ⟨by decide, by decide, by decide, by decide, by decide, by decide, by decide, by decide⟩

/-- The last clause of that statement: the signal on, the signal off, the descriptor done without a link, a link to a descriptor
with `autoRequest` and to one without; a nested operation that stops. -/
theorem witness_ActivationOfOneTransfer_any_script :
    (∀ s ∈ [s1, scripted 1 n3, bound 0 0 0x20, bound 0 0 0, linked 0 k3, linked 0 [0x38, 0, 0x20, 0, 0x10]],
      0 < s.numChannels ∧ (s.chan 0).inProgress = false ∧ (s.chan 0).done = false ∧
      ((s.guard 0 true).chan 0).inProgress = true) ∧
    gives (exec (.minorTransfer 0) (s1.guard 0 true)) (fun t => !(t.chan 0).done && t.signalOn 0) = true ∧
    gives (exec (.minorTransfer 0) ((bound 0 0 0x20).guard 0 true)) (fun t => !(t.chan 0).done && !t.signalOn 0) = true ∧
    gives (exec (.minorTransfer 0) ((bound 0 0 0).guard 0 true)) (fun t => (t.chan 0).done && !(t.chan 0).desc.link) = true ∧
    gives (exec (.minorTransfer 0) ((scripted 1 n3).guard 0 true)) (fun t => (t.chan 0).done) = true ∧
    (∀ b ∈ [k3, [0x38, 0, 0x20, 0, 0x10]], gives (exec (.minorTransfer 0) ((linked 0 b).guard 0 true)) (fun t =>
      (t.chan 0).done && (t.chan 0).desc.link && ((t.chainOn 0).chan 0).desc.autoRequest == decide (b ≠ k3)) = true) ∧
    stops (exec (.minorTransfer 0) ((scripted 1 [.rd .plain (.ctrl 2)]).guard 0 true)) .noSuchChannel = true :=
  ⟨by decide, by decide, by decide, by decide, by decide, by decide, by decide⟩

/-- S1's Edge channel and the armed pull channel of program P3 with their signals on, `All` mode and a last block without. -/
theorem witness_HeldRequestRunsToCompletion :
    (∀ q ∈ [(s1, 1), (p3.armed, 2), (bound 0 0 0x00200030, 4), (bound 0 0 0, 1)],
      q.1.finishes 0 q.2 1 ∧ (q.1.chan 0).desc.link = false) ∧
    (p3.armed.chan 0).pullArmed = true ∧ (p3.armed.chan 0).requestDisable = false ∧ p3.armed.signalOn 0 = true := by
  decide

/-- The successor of vector K3 has no `autoRequest`; the second successor, in `All` mode, has it and does not link. -/
theorem witness_ChainedDescriptorRunsInTheSameActivation :
    ((linked 0 k3).finishes 0 1 1 ∧ ((linked 0 k3).chan 0).desc.link = true) ∧
    (((linkedOn 0 k3).chan 0).desc.autoRequest = false ∧ (linkedOn 0 k3).signalOn 0 = false) ∧
    ((linked 0 [0x38, 0, 0x20, 0, 0x10]).finishes 0 1 1 ∧ ((linked 0 [0x38, 0, 0x20, 0, 0x10]).chan 0).desc.link = true) ∧
    ((linkedOn 0 [0x38, 0, 0x20, 0, 0x10]).chan 0).desc.autoRequest = true ∧
    (linkedOn 0 [0x38, 0, 0x20, 0, 0x10]).finishes 0 4 1 ∧
    ((linkedOn 0 [0x38, 0, 0x20, 0, 0x10]).chan 0).desc.link = false :=
  ⟨by decide, by decide, by decide, by decide, by decide, by decide⟩

theorem witness_ActivationEndsDoneOrUnrequested :
    (s1.chan 0).inProgress = false ∧ (s1.chan 0).done = false ∧
    exec (.executeActivation 0) s1 = .next (leaves (exec (.executeActivation 0) s1)) :=
  ⟨by decide, by decide, next_of_gives (f := fun t => decide (t.busLog.length = 4)) (by decide)⟩

/-- Channel 0 with its signal on and the control word `w`. -/
def requested (w : Word) : State := (bound 3 1 w).on [⟨3, 1, false⟩]

/-- A requested channel with each unsupported configuration. -/
theorem witness_UnsupportedRequestedActivationHangs :
    (0 < (requested 0x51).numChannels ∧ ((requested 0x51).chan 0).inProgress = false ∧
      ((requested 0x51).chan 0).done = false ∧ (requested 0x51).signalOn 0 = true) ∧
    ((requested 0x51).chan 0).desc.structureKind ≠ .transfer ∧
    ((requested 0x0C000010).chan 0).desc.unitSize = .reservedSize ∧
    ((requested 0x00080010).chan 0).desc.requestMode = .block ∧
    ((requested 0x00080010).chan 0).desc.blockSize = .reservedBlock8 :=
  ⟨by decide, by decide, by decide, by decide⟩

/-- The last channel unarmed; an offset no register has; the first channel that does not exist. -/
theorem witness_FormsThatStopByName :
    (1 < s1.numChannels ∧ (s1.chan 1).pullArmed = false) ∧
    (s1.params.hasAliasBanks = true ∧ ∀ e ∈ s1.params.regOffset, e.2 ≠ (0xFFC : BitVec 12).toNat) ∧
    s1.numChannels ≤ 2 := by decide

end Sys2Proof.Tests
end

section
/-! PROOFS. Channel reads after the updates of every channel, and what the channel-level operations leave alone. -/

namespace Sys2Proof.Machine

/-! ### Reading channels -/

/-- A channel that does not exist reads as a reset one. -/
theorem State.chan_absent (s : State) (k : Nat) (h : s.numChannels ≤ k) : s.chan k = Channel.zero k := by
  have h' : s.ch.length ≤ k := h
  simp [State.chan, List.getD_eq_getElem?_getD, h']

/-- A reflexive relation that an update of every channel satisfies holds of every channel, absent ones included. -/
theorem State.chan_mapChan_rel {P : Channel → Channel → Prop} (s : State) (k : Nat) (f : Nat → Channel → Channel)
    (refl : ∀ c, P c c) (step : P (s.chan k) (f k (s.chan k))) : P (s.chan k) ((s.mapChan f).chan k) := by
  by_cases h : k < s.numChannels
  · rw [State.chan_mapChan s f k h]; exact step
  · rw [State.chan_absent s k (by omega), State.chan_absent (s.mapChan f) k (by simp; omega)]; exact refl _

@[simp] theorem State.numChannels_resetAll (s : State) : s.resetAll.numChannels = s.numChannels := by
  simp [State.numChannels, State.resetAll]

@[simp] theorem State.chan_resetAll (s : State) (k : Nat) : s.resetAll.chan k = Channel.zero (s.chan k).index := by
  simp only [State.chan, State.resetAll, List.getD_eq_getElem?_getD, List.getElem?_map]
  cases s.ch[k]? <;> rfl

/-! ### The address of a chain-load -/

/-- A chain-load reads at a multiple of 4: its offset is one, and so is the base it may be relative to (10_state R28). -/
theorem linkTarget_aligned (c : Channel) (h : c.descLoadAddr.toNat % 4 = 0) : (linkTarget c).toNat % 4 = 0 := by
  have offset : (c.desc.linkAddress ++ 0#2).toNat % 4 = 0 := by
    rw [toNat_append_arith]; exact Nat.mul_mod_left _ _
  unfold linkTarget
  cases c.desc.linkMode with
  | absolute => exact offset
  | relative => simp only [BitVec.toNat_add]; omega

/-! ### The end of a minor transfer -/

/-- What a minor transfer does after its copy is a completion, a descriptor update, or both (42_channel_engine R183, R184). -/
theorem afterCopy_rel {R : State → State → Prop} (refl : ∀ s, R s s) (trans : ∀ s t u, R s t → R t u → R s u)
    (complete : ∀ s i, R s (s.complete i)) (updateDesc : ∀ s i f, R s (s.updateDesc i f))
    (i : Nat) (d : TransferDescriptor) (p : TransferPlan) (s : State) : R s (afterCopy i d p s) := by
  unfold afterCopy
  cases d.requestMode with
  | all => exact complete s i
  | block =>
    refine trans _ _ _ ?_ (updateDesc _ i _)
    split
    · exact complete s i
    · exact refl s

end Sys2Proof.Machine
end

section
/-! PROOFS. What every operation keeps: the parameters, the canonical forms of memory and of the crossbar's set, and of every
channel its index, the alignment of `descLoadAddr` and a clear guard. -/

namespace Sys2Proof.Machine

/-! ### One channel -/

/-- `d` has the index of `c`, and an aligned load address and a clear guard where `c` has them (10_state R28, R31, R33). -/
structure ChannelKept (c d : Channel) : Prop where
  index : d.index = c.index
  aligned : c.descLoadAddr.toNat % 4 = 0 → d.descLoadAddr.toNat % 4 = 0
  unguarded : c.inProgress = false → d.inProgress = false

theorem ChannelKept.refl (c : Channel) : ChannelKept c c := ⟨rfl, id, id⟩

theorem ChannelKept.trans {c d e : Channel} (h : ChannelKept c d) (k : ChannelKept d e) : ChannelKept c e :=
  ⟨k.index.trans h.index, k.aligned ∘ h.aligned, k.unguarded ∘ h.unguarded⟩

theorem ChannelKept.latchDone (c : Channel) : ChannelKept c (latchDone c) := by
  unfold Machine.latchDone
  split
  · exact .refl c
  · exact ⟨rfl, id, id⟩

theorem ChannelKept.reset (c : Channel) : ChannelKept c (Channel.zero c.index) := ⟨rfl, fun _ => rfl, fun _ => rfl⟩

/-! ### The state -/

/-- `t` is as good as `s`: whatever of `State.Good` holds of `s` holds of `t`, the parameters and channels being the same. -/
structure State.Kept (s t : State) : Prop where
  params : t.params = s.params
  numChannels : t.numChannels = s.numChannels
  mem : s.mem.wf → t.mem.wf
  asserted : idsWf s.asserted → idsWf t.asserted
  channels : ∀ k, ChannelKept (s.chan k) (t.chan k)

/-- The relation is tied to the invariant. -/
theorem State.Kept.good {s t : State} (h : s.Kept t) (g : s.Good) : t.Good where
  params := by rw [h.params, h.numChannels]; exact g.params
  mem := h.mem g.mem
  asserted := h.asserted g.asserted
  channels i hi := by
    obtain ⟨index, aligned, unguarded⟩ := g.channels i (h.numChannels ▸ hi)
    have kept := h.channels i
    exact ⟨kept.index.trans index, kept.aligned aligned, kept.unguarded unguarded⟩

theorem State.Kept.trans {s t u : State} (h : s.Kept t) (k : t.Kept u) : s.Kept u where
  params := k.params.trans h.params
  numChannels := k.numChannels.trans h.numChannels
  mem := k.mem ∘ h.mem
  asserted := k.asserted ∘ h.asserted
  channels i := (h.channels i).trans (k.channels i)

/-- Updates outside the channel array. -/
theorem State.Kept.of_ch {s t : State} (params : t.params = s.params) (ch : t.ch = s.ch) (mem : s.mem.wf → t.mem.wf)
    (asserted : idsWf s.asserted → idsWf t.asserted) : s.Kept t where
  params := params
  numChannels := State.numChannels_of_ch t s ch
  mem := mem
  asserted := asserted
  channels k := State.chan_of_ch t s ch k ▸ .refl _

theorem State.Kept.refl (s : State) : s.Kept s := .of_ch rfl rfl id id

theorem State.Kept.updateChan (s : State) (i : Nat) (f : Channel → Channel) (h : ChannelKept (s.chan i) (f (s.chan i))) :
    s.Kept (s.updateChan i f) where
  params := rfl
  numChannels := State.numChannels_updateChan s i f
  mem := id
  asserted := id
  channels k := State.chan_updateChan_rel s i k f .refl h

theorem State.Kept.updateDesc (s : State) (i : Nat) (f : TransferDescriptor → TransferDescriptor) :
    s.Kept (s.updateDesc i f) := .updateChan s i _ ⟨rfl, id, id⟩

theorem State.Kept.mapChan (s : State) (f : Nat → Channel → Channel) (h : ∀ k c, ChannelKept c (f k c)) :
    s.Kept (s.mapChan f) where
  params := rfl
  numChannels := State.numChannels_mapChan s f
  mem := id
  asserted := id
  channels k := State.chan_mapChan_rel s k f .refl (h k _)

theorem State.Kept.complete (s : State) (i : Nat) : s.Kept (s.complete i) := .updateChan s i _ (.latchDone _)

theorem State.Kept.chainLoad (s : State) (i : Nat) : s.Kept (s.chainLoad i) :=
  have fetched : s.Kept (s.busCall (.memRead (linkTarget (s.chan i)) 32)) := .of_ch rfl rfl id id
  fetched.trans (.updateChan _ i _ ⟨rfl, linkTarget_aligned (s.chan i), id⟩)

/-- An activation gives the guard back: it is clear at the end, whatever the guarded part kept (10_state R31). -/
theorem State.Kept.guarded {s t : State} {i : Nat} (h : (s.guard i true).Kept t) : s.Kept (t.guard i false) where
  params := h.params
  numChannels := by simpa [State.guard] using h.numChannels
  mem := h.mem
  asserted := h.asserted
  channels k := by
    have same : t.numChannels = s.numChannels := by simpa [State.guard] using h.numChannels
    have kept := h.channels k
    simp only [State.guard, State.chan_updateChan, same] at kept ⊢
    split at kept
    next hk => rw [if_pos hk]; exact ⟨kept.index, kept.aligned, fun _ => rfl⟩
    next hk => rw [if_neg hk]; exact kept

theorem State.Kept.resetAll (s : State) : s.Kept s.resetAll where
  params := rfl
  numChannels := s.numChannels_resetAll
  mem := id
  asserted _ := List.Pairwise.nil
  channels k := by rw [State.chan_resetAll]; exact .reset _

/-! ### Every operation -/

theorem State.Kept.engineLifts : EngineLifts State.Kept where
  refl := .refl
  trans _ _ _ := .trans
  diag _ _ := .of_ch rfl rfl id id
  beginCopy _ _ _ _ := .of_ch rfl rfl id id
  moveUnit s a b w :=
    .of_ch (s.moveUnit_params a b w) (s.moveUnit_ch a b w) (s.wf_moveUnit a b w) (s.moveUnit_asserted a b w ▸ id)
  afterCopy := afterCopy_rel .refl (fun _ _ _ => .trans) .complete .updateDesc
  chainLoad := .chainLoad
  clearDone s i := .updateChan s i _ ⟨rfl, id, id⟩
  guarded _ _ _ _ := .guarded
  armPull s i _ := .updateChan s i _ ⟨rfl, id, id⟩

theorem State.Kept.lifts : Lifts State.Kept where
  toEngineLifts := State.Kept.engineLifts
  asserted s k := .of_ch rfl rfl id (idsWf_insertId k s.asserted)
  deasserted s k := .of_ch rfl rfl id (idsWf_eraseId k s.asserted)
  enableStores s _ := .mapChan s _ fun _ c => by
    split
    · exact ⟨rfl, id, id⟩
    · exact .refl c
  writeDisable s _ := .mapChan s _ fun _ c => by
    split
    · exact ⟨rfl, id, id⟩
    · exact .refl c
  writeDone s _ := .mapChan s _ fun _ _ => ⟨rfl, id, id⟩
  writeIntflag s _ := .mapChan s _ fun _ _ => ⟨rfl, id, id⟩
  writeInten s _ := .mapChan s _ fun _ _ => ⟨rfl, id, id⟩
  reqdisableStores s _ := .mapChan s _ fun _ _ => ⟨rfl, id, id⟩
  writeReqsel s i _ _ := .updateChan s i _ ⟨rfl, id, id⟩
  writeConfig s i _ := .updateChan s i _ ⟨rfl, id, id⟩
  writeLoop s i _ := .updateChan s i _ ⟨rfl, id, id⟩
  ctrlStores s i _ := .updateDesc s i _
  writeSrcaddr s i _ := .updateDesc s i _
  writeDstaddr s i _ := .updateDesc s i _
  writeLink s i _ := .updateDesc s i _

theorem exec_kept (i : Instr) (s t : State) (h : exec i s = .next t) : s.Kept t :=
  exec_rel State.Kept.lifts (fun _ _ => .of_ch rfl rfl id id) .complete .resetAll i s t h

theorem step_kept (s t : State) (h : step s = .next t) : s.Kept t := by
  rcases step_cases s t h with rfl | ⟨i, rest, -, run⟩
  · exact .refl _
  · have taken : s.Kept { s with pending := rest } := .of_ch rfl rfl id id
    exact taken.trans (exec_kept i _ t run)

/-- Settles O10: every elementary update, and so every step, keeps the parts of goodness. -/
theorem stepKeepsGood : Obligations.StepKeepsGood := fun s t good h => (step_kept s t h).good good

/-- Settles O11: a step keeps the number of channels and each index, in every state. -/
theorem channelsAreFixed : Obligations.ChannelsAreFixed := fun s t h =>
  have kept := step_kept s t h
  ⟨kept.numChannels, fun i => (kept.channels i).index⟩

end Sys2Proof.Machine
end

section
/-! PROOFS. With no nested operation, an operation of the engine satisfies every relation the engine's own updates satisfy; the
fields only software changes are kept by those updates. -/

namespace Sys2Proof.Machine

/-! ### Engine operations -/

/-- With an empty script nothing runs nested, so a nested operation satisfies every relation. -/
theorem State.quiet.nestRel {s : State} (h : s.quiet) (R : State → State → Prop) : NestRel R s.nest := by
  intro op u v run
  rw [State.nest, h] at run
  cases run

section
variable {R : State → State → Prop} (L : EngineLifts R) {nest : Nest} (N : NestRel R nest)
include L N

theorem EngineLifts.deliver (k : SignalId) (i : Nat) (s t : State) (h : deliver nest k i s = .next t) : R s t := by
  unfold Machine.deliver at h
  split at h
  · exact L.attemptStart N i s t h
  · cases h; exact L.refl s

theorem EngineLifts.forceOne (i : Nat) (s t : State) (h : forceOne nest i s = .next t) : R s t := by
  unfold Machine.forceOne at h
  split at h
  · exact L.attemptStart N i s t h
  · cases h; exact L.diag s _

/-- A signal satisfies the relation where a change of the crossbar's set does. -/
theorem EngineLifts.signal (asserted : ∀ (s : State) set, R s { s with asserted := set }) (id : Word) (level : Bool)
    (s t : State) (h : signal nest id level s = .next t) : R s t := by
  cases level with
  | true => exact L.trans _ _ _ (asserted s _) (forEach_rel L.refl L.trans (L.deliver N _) _ _ t h)
  | false => cases h; exact asserted s _

end

/-- What an engine operation does to a state with no nested operation, from what the engine's updates do to it. -/
theorem exec_engine_rel {R : State → State → Prop} (L : EngineLifts R)
    (asserted : ∀ (s : State) set, R s { s with asserted := set }) (complete : ∀ s i, R s (s.complete i))
    (op : Instr) (s t : State) (engine : engineOp op = true) (quiet : s.quiet) (h : exec op s = .next t) : R s t := by
  have N : NestRel R s.nest := quiet.nestRel R
  cases op with
  | sig id level => exact L.signal N asserted id level s t h
  | tick i =>
    obtain ⟨-, h⟩ := withChannel_eq_next.mp h
    split at h
    · exact L.pullTick N i s t h
    · cases h
  | wrForce v => exact forEach_rel L.refl L.trans (L.forceOne N) _ s t h
  | wrLinkload v => exact forEach_rel L.refl L.trans (L.linkLoadOp N) _ s t h
  | attemptStart i => obtain ⟨-, h⟩ := withChannel_eq_next.mp h; exact L.attemptStart N i s t h
  | executeActivation i => obtain ⟨-, h⟩ := withChannel_eq_next.mp h; exact L.executeActivation N i s t h
  | minorTransfer i => obtain ⟨-, h⟩ := withChannel_eq_next.mp h; exact L.minorTransfer N i s t h
  | setDone i => obtain ⟨-, h⟩ := withChannel_eq_next.mp h; cases h; exact complete s i
  | chainLoad i => obtain ⟨-, h⟩ := withChannel_eq_next.mp h; cases h; exact L.chainLoad s i
  | linkLoadOp i => obtain ⟨-, h⟩ := withChannel_eq_next.mp h; exact L.linkLoadOp N i s t h
  | _ => cases engine

/-! ### The fields only software changes -/

/-- `d` has the software's fields of `c` (10_state R29, R30, R34, R35) and its latched interrupt if `c` has one (R285). -/
def SoftwareKept (c d : Channel) : Prop :=
  softwareFields d = softwareFields c ∧ (c.doneInterrupt = true → d.doneInterrupt = true)

theorem SoftwareKept.refl (c : Channel) : SoftwareKept c c := ⟨rfl, id⟩

theorem SoftwareKept.trans {c d e : Channel} (h : SoftwareKept c d) (k : SoftwareKept d e) : SoftwareKept c e :=
  ⟨k.1.trans h.1, k.2 ∘ h.2⟩

/-- A completion only ever latches the interrupt (42_channel_engine R186). -/
theorem SoftwareKept.latchDone (c : Channel) : SoftwareKept c (latchDone c) := by
  unfold Machine.latchDone
  split
  · exact .refl c
  · exact ⟨rfl, fun latched => by simp [latched]⟩

/-- Every channel keeps the software's fields. -/
def State.SoftwareKept (s t : State) : Prop := ∀ k, Machine.SoftwareKept (s.chan k) (t.chan k)

theorem State.SoftwareKept.trans {s t u : State} (h : s.SoftwareKept t) (k : t.SoftwareKept u) : s.SoftwareKept u :=
  fun i => (h i).trans (k i)

/-- Updates outside the channel array. -/
theorem State.SoftwareKept.of_ch {s t : State} (ch : t.ch = s.ch) : s.SoftwareKept t :=
  fun k => State.chan_of_ch t s ch k ▸ .refl _

theorem State.SoftwareKept.updateChan (s : State) (i : Nat) (f : Channel → Channel)
    (h : ∀ c, Machine.SoftwareKept c (f c)) : s.SoftwareKept (s.updateChan i f) :=
  fun k => State.chan_updateChan_rel s i k f .refl (h _)

theorem State.SoftwareKept.complete (s : State) (i : Nat) : s.SoftwareKept (s.complete i) := .updateChan s i _ .latchDone

theorem State.SoftwareKept.engineLifts : EngineLifts State.SoftwareKept where
  refl _ := .of_ch rfl
  trans _ _ _ := .trans
  diag _ _ := .of_ch rfl
  beginCopy _ _ _ _ := .of_ch rfl
  moveUnit s a b w := .of_ch (s.moveUnit_ch a b w)
  afterCopy := afterCopy_rel (fun _ => .of_ch rfl) (fun _ _ _ => .trans) .complete
    fun s i _ => .updateChan s i _ fun _ => ⟨rfl, id⟩
  chainLoad s i := .updateChan (s.busCall _) i _ fun _ => ⟨rfl, id⟩
  clearDone s i := .updateChan s i _ fun _ => ⟨rfl, id⟩
  guarded s t i _ h :=
    have raised : s.SoftwareKept (s.guard i true) := .updateChan s i _ fun _ => ⟨rfl, id⟩
    have cleared : t.SoftwareKept (t.guard i false) := .updateChan t i _ fun _ => ⟨rfl, id⟩
    (raised.trans h).trans cleared
  armPull s i _ := .updateChan s i _ fun _ => ⟨rfl, id⟩

/-- Settles O13: no update of the engine changes the software's fields, and a completion only latches the interrupt. -/
theorem engineLeavesSoftwareOnlyFields : Obligations.EngineLeavesSoftwareOnlyFields :=
  exec_engine_rel (R := State.SoftwareKept) State.SoftwareKept.engineLifts (fun _ _ => .of_ch rfl)
    State.SoftwareKept.complete

end Sys2Proof.Machine
end

section
/-! PROOFS. Every operation is composed of updates that leave memory and the script alone, of copies, and of sequencing. Two facts
follow by induction over that composition: a relation that such updates and copies satisfy holds across every operation, and how
nested operations run matters only at states whose script is shorter. -/

namespace Sys2Proof.Machine

/-! ### Updates that store nothing -/

/-- `t` is `s` after updates that store nothing in memory and begin no copy: a descriptor fetch is one (20_memory R64). -/
structure State.NoStore (s t : State) : Prop where
  mem : t.mem = s.mem
  copyEnv : t.copyEnv = s.copyEnv
  diagLog : s.diagLog <+: t.diagLog
  busLog : s.busLog <+: t.busLog

/-- Updates outside memory, the script and the logs. -/
theorem State.NoStore.of_same {s t : State} (mem : t.mem = s.mem) (copyEnv : t.copyEnv = s.copyEnv)
    (diagLog : t.diagLog = s.diagLog) (busLog : t.busLog = s.busLog) : s.NoStore t :=
  ⟨mem, copyEnv, diagLog ▸ List.prefix_rfl, busLog ▸ List.prefix_rfl⟩

theorem State.NoStore.refl (s : State) : s.NoStore s := .of_same rfl rfl rfl rfl

theorem State.NoStore.diag (s : State) (g : Diagnostic) : s.NoStore (s.diag g) :=
  ⟨rfl, rfl, List.prefix_append _ _, List.prefix_rfl⟩

theorem State.NoStore.updateChan (s : State) (i : Nat) (f : Channel → Channel) : s.NoStore (s.updateChan i f) :=
  .of_same rfl rfl rfl rfl

theorem State.NoStore.mapChan (s : State) (f : Nat → Channel → Channel) : s.NoStore (s.mapChan f) :=
  .of_same rfl rfl rfl rfl

theorem State.NoStore.answer (s : State) (r : Result) : s.NoStore (s.answer r) := .of_same rfl rfl rfl rfl

theorem State.NoStore.chainLoad (s : State) (i : Nat) : s.NoStore (s.chainLoad i) :=
  ⟨rfl, rfl, List.prefix_rfl, List.prefix_append _ _⟩

theorem State.NoStore.chained (s : State) (i : Nat) : s.NoStore (s.chained i) := by
  unfold State.chained
  split
  · exact ⟨rfl, rfl, List.prefix_rfl, List.prefix_append _ _⟩
  · exact .refl s

theorem State.NoStore.reportPull (s : State) (i : Nat) : s.NoStore (s.reportPull i) := by
  unfold State.reportPull
  split
  · exact .refl s
  · exact .diag s _

theorem State.NoStore.disarmTest (s : State) (i : Nat) : s.NoStore (s.disarmTest i) :=
  .of_same (s.disarmTest_mem i) (s.disarmTest_copyEnv i) (s.disarmTest_diagLog i) (s.disarmTest_busLog i)

theorem State.NoStore.afterCopy (i : Nat) (d : TransferDescriptor) (p : TransferPlan) (s : State) :
    s.NoStore (afterCopy i d p s) :=
  .of_same (afterCopy_mem i d p s) (afterCopy_copyEnv i d p s) (afterCopy_diagLog i d p s) (afterCopy_busLog i d p s)

/-! ### The composition of an operation -/

/-- What an operation begun in a state answers, as a function of how nested operations run, when it is composed of updates that
store nothing, of copies, and of sequencing. -/
inductive Composed : State → (Nest → Out) → Prop
  | next (s : State) : Composed s fun _ => .next s
  | fault (s : State) (r : Fault) : Composed s fun _ => .fault r
  | refused (s : State) (r : Refusal) : Composed s fun _ => .refused r
  | copy (s : State) (src dst : Word) (p : TransferPlan) : Composed s fun nest => copy nest src dst p s
  | after {s t : State} {o : Nest → Out} (update : s.NoStore t) (rest : Composed t o) : Composed s o
  | andThen {s : State} {o : Nest → Out} {f : Nest → State → Out} (first : Composed s o)
      (rest : ∀ t, Composed t fun nest => f nest t) : Composed s fun nest => andThen (o nest) (f nest)

/-- An operation that is one update. -/
theorem Composed.update {s t : State} (h : s.NoStore t) : Composed s fun _ => .next t := .after h (.next t)

theorem Composed.ite {s : State} {c : Prop} [Decidable c] {o o' : Nest → Out} (yes : Composed s o) (no : Composed s o') :
    Composed s fun nest => if c then o nest else o' nest := by
  by_cases h : c
  · simpa only [if_pos h] using yes
  · simpa only [if_neg h] using no

theorem Composed.withChannel {s : State} {i : Nat} {o : Nest → Out} (h : Composed s o) :
    Composed s fun nest => withChannel s i (o nest) := .ite h (.refused s _)

theorem Composed.forEach {act : Nest → Nat → State → Out} (body : ∀ i t, Composed t fun nest => act nest i t)
    (is : List Nat) (s : State) : Composed s fun nest => forEach (act nest) is s := by
  induction is generalizing s with
  | nil => exact .next s
  | cons i rest ih => exact .andThen (body i s) ih

theorem Composed.minorTransfer (i : Nat) (s : State) : Composed s (minorTransfer · i s) := by
  simp only [Machine.minorTransfer]
  cases transferPlan i (s.chan i).desc with
  | error g => exact .update (.diag s g)
  | ok p => exact .andThen (.copy s _ _ p) fun t => .update (.afterCopy i _ p t)

theorem Composed.activationLoop (i fuel : Nat) (s : State) : Composed s (activationLoop · i fuel s) := by
  induction fuel generalizing s with
  | zero => exact .fault s .hang
  | succ fuel ih => exact .andThen (.minorTransfer i s) fun t => .ite (.after (.chained t i) (ih _)) (.update (.chained t i))

theorem Composed.executeActivation (i : Nat) (s : State) : Composed s (executeActivation · i s) :=
  .ite (.next s)
    (.after (.updateChan s i _) (.andThen (.activationLoop i Config.loopFuel _) fun t => .update (.updateChan t i _)))

theorem Composed.attemptStart (i : Nat) (s : State) : Composed s (attemptStart · i s) :=
  .ite (.update (.updateChan s i _)) (.after (.reportPull s i) (.executeActivation i _))

theorem Composed.linkLoadOp (i : Nat) (s : State) : Composed s (linkLoadOp · i s) :=
  .after (.chainLoad s i) (.ite (.attemptStart i _) (.next _))

theorem Composed.pullTick (i : Nat) (s : State) : Composed s (pullTick · i s) :=
  .andThen (.ite (.executeActivation i s) (.next s)) fun t => .update (.disarmTest t i)

theorem Composed.deliver (k : SignalId) (i : Nat) (s : State) : Composed s (deliver · k i s) :=
  .ite (.attemptStart i s) (.next s)

theorem Composed.signal (id : Word) (level : Bool) (s : State) : Composed s (signal · id level s) :=
  have stored (set : List SignalId) : s.NoStore { s with asserted := set } := .of_same rfl rfl rfl rfl
  .ite (.after (stored _) (.forEach (.deliver _) _ _)) (.update (stored _))

theorem Composed.writeReg (r : RegName) (v : Word) (s : State) : Composed s (writeReg · r v s) := by
  cases r with
  | enable => exact .after (.mapChan s _) (.forEach .attemptStart _ _)
  | disable | done | intflag | inten => exact .update (.mapChan s _)
  | status => exact .next s
  | force => exact .forEach (fun i t => .ite (.attemptStart i t) (.update (.diag t _))) _ s
  | linkload => exact .forEach .linkLoadOp _ s
  | reqdisable => exact .after (.mapChan s _) (.forEach (fun i t => .ite (.attemptStart i t) (.next t)) _ _)
  | ctrl i => exact .after (.updateChan s i _) (.ite (.linkLoadOp i _) (.next _))
  | reqsel i | config i | loop i | srcaddr i | dstaddr i | link i => exact .update (.updateChan s i _)

theorem Composed.writeVia (bank : Bank) (r : RegName) (v : Word) (s : State) : Composed s (writeVia · bank r v s) :=
  .ite (.writeReg r _ s) (.refused s _)

theorem Composed.writeAddress (bank : BitVec 2) (offset : BitVec 12) (v : Word) (s : State) :
    Composed s (writeAddress · bank offset v s) := by
  unfold Machine.writeAddress
  cases resolve s.params bank offset with
  | some target => exact .writeVia target.1 target.2 v s
  | none => exact .refused s _

theorem Composed.applyEnvOp (op : EnvOp) (s : State) : Composed s (applyEnvOp · op s) := by
  cases op with
  | sig id level => exact .signal id level s
  | rd bank r => exact .ite (.refused s _) (.ite (.next s) (.refused s _))
  | wr bank r v => exact .ite (.writeVia bank r v s) (.refused s _)
  | wrReqsel i source signal => exact .withChannel (.update (.updateChan s i _))

/-- Every operation is composed so, its nested operations run to the depth of its own start state. -/
theorem exec_composed (op : Instr) (s : State) : ∃ o, Composed s o ∧ exec op s = o s.nest := by
  cases op with
  | reset => exact ⟨_, .update (t := s.resetAll) (.of_same rfl rfl rfl rfl), rfl⟩
  | sig id level => exact ⟨_, .signal id level s, rfl⟩
  | tick i => exact ⟨_, .withChannel (.ite (.pullTick i s) (.refused s .timerNotArmed)), rfl⟩
  | wrEnable v => exact ⟨_, .writeReg .enable v s, rfl⟩
  | wrDisable v => exact ⟨_, .writeReg .disable v s, rfl⟩
  | wrStatus v => exact ⟨_, .writeReg .status v s, rfl⟩
  | wrDone v => exact ⟨_, .writeReg .done v s, rfl⟩
  | wrIntflag v => exact ⟨_, .writeReg .intflag v s, rfl⟩
  | wrInten v => exact ⟨_, .writeReg .inten v s, rfl⟩
  | wrForce v => exact ⟨_, .writeReg .force v s, rfl⟩
  | wrLinkload v => exact ⟨_, .writeReg .linkload v s, rfl⟩
  | wrReqdisable v => exact ⟨_, .writeReg .reqdisable v s, rfl⟩
  | wrReqsel i source signal => exact ⟨_, .withChannel (.update (.updateChan s i _)), rfl⟩
  | wrConfig i v => exact ⟨_, .withChannel (.writeReg (.config i) v s), rfl⟩
  | wrLoop i v => exact ⟨_, .withChannel (.writeReg (.loop i) v s), rfl⟩
  | wrCtrl i v => exact ⟨_, .withChannel (.writeReg (.ctrl i) v s), rfl⟩
  | wrSrcaddr i v => exact ⟨_, .withChannel (.writeReg (.srcaddr i) v s), rfl⟩
  | wrDstaddr i v => exact ⟨_, .withChannel (.writeReg (.dstaddr i) v s), rfl⟩
  | wrLink i v => exact ⟨_, .withChannel (.writeReg (.link i) v s), rfl⟩
  | wrPlain r v | wrSet r v | wrClr r v | wrTgl r v => exact ⟨_, .writeAddress _ r v s, rfl⟩
  | rdAny bank r =>
    refine ⟨fun _ => readAddress bank r s, ?_, rfl⟩
    unfold readAddress
    cases resolve s.params bank r with
    | some target => exact .ite (.update (.answer s _)) (.refused s _)
    | none => exact .refused s _
  | rdEnable | rdDisable | rdStatus | rdDone | rdIntflag | rdInten | rdForce | rdLinkload | rdReqdisable | descW0 w | descW1 w
  | descW2 w | descW3 w | descW4to7 w | sigId id | encodeDesc d | updateInterrupts =>
    exact ⟨_, .update (.answer s _), rfl⟩
  | rdReqsel i | rdConfig i | rdLoop i | rdCtrl i | rdSrcaddr i | rdDstaddr i | rdLink i | matchesId i k | signalIsOn i =>
    exact ⟨_, .withChannel (.update (.answer s _)), rfl⟩
  | decodeDesc b => exact ⟨_, .ite (c := bytesOk b) (.update (.answer s _)) (.refused s .illFormed), rfl⟩
  | shouldPull i => exact ⟨_, .withChannel (.after (.reportPull s i) (.update (.answer _ _))), rfl⟩
  | attemptStart i => exact ⟨_, .withChannel (.attemptStart i s), rfl⟩
  | executeActivation i => exact ⟨_, .withChannel (.executeActivation i s), rfl⟩
  | minorTransfer i => exact ⟨_, .withChannel (.minorTransfer i s), rfl⟩
  | setDone i => exact ⟨_, .withChannel (.update (.updateChan s i latchDone)), rfl⟩
  | chainLoad i => exact ⟨_, .withChannel (.update (.chainLoad s i)), rfl⟩
  | linkLoadOp i => exact ⟨_, .withChannel (.linkLoadOp i s), rfl⟩

/-! ### Relations across whole copies -/

/-- `R` holds across updates that store nothing, and across a copy where it holds across what is nested in it. Unlike `Lifts`, it
need not hold across one unit move by itself. -/
structure CopyLifts (R : State → State → Prop) : Prop where
  noStore : ∀ s t, s.NoStore t → R s t
  trans : ∀ s t u, R s t → R t u → R s u
  copy : ∀ nest, NestRel R nest → ∀ src dst p s t, copy nest src dst p s = .next t → R s t

theorem CopyLifts.refl {R : State → State → Prop} (L : CopyLifts R) (s : State) : R s s := L.noStore s s (.refl s)

theorem Composed.rel {R : State → State → Prop} (L : CopyLifts R) {nest : Nest} (N : NestRel R nest) {s : State}
    {o : Nest → Out} (h : Composed s o) (t : State) (run : o nest = .next t) : R s t := by
  induction h generalizing t with
  | next s => cases run; exact L.refl _
  | fault | refused => cases run
  | copy s src dst p => exact L.copy nest N src dst p s t run
  | after update _ ih => exact L.trans _ _ _ (L.noStore _ _ update) (ih t run)
  | andThen _ _ first rest =>
    obtain ⟨u, hu, ht⟩ := andThen_eq_next.mp run
    exact L.trans _ _ _ (first u hu) (rest u t ht)

theorem CopyLifts.nested {R : State → State → Prop} (L : CopyLifts R) (depth : Nat) : NestRel R (nested depth) := by
  induction depth with
  | zero => intro op s t run; cases run
  | succ depth ih => intro op s t run; exact (Composed.applyEnvOp op s).rel L ih t run

theorem CopyLifts.exec {R : State → State → Prop} (L : CopyLifts R) (op : Instr) (s t : State) (run : exec op s = .next t) :
    R s t := by
  obtain ⟨o, composed, answer⟩ := exec_composed op s
  exact composed.rel L (L.nested _) t (answer ▸ run)

section
variable {R : State → State → Prop} (refl : ∀ s, R s s) (trans : ∀ s t u, R s t → R t u → R s u) {nest : Nest}
  (N : NestRel R nest)
include refl trans N

theorem runEvents_rel (es : List CopyEvent) (s t : State) (run : runEvents nest es s = .next t) : R s t := by
  induction es generalizing s with
  | nil => cases run; exact refl _
  | cons e rest ih =>
    obtain ⟨u, hu, ht⟩ := andThen_eq_next.mp run
    exact trans _ _ _ (N _ _ _ hu) (ih u ht)

/-- What the last `m` units of a copy do, from what its units, each at its own place, and the nested operations do. -/
theorem copyUnits_rel {src dst : Word} {n : Nat} {p : TransferPlan}
    (unit : ∀ s k, k < n → R s (s.moveUnit (advance src p.srcStep k) (advance dst p.dstStep k) p.width))
    (events : List CopyEvent) (m : Nat) (hm : m ≤ n) (s t : State) (run : copyUnits nest events src dst n p m s = .next t) :
    R s t := by
  induction m generalizing s with
  | zero => exact runEvents_rel refl trans N _ s t run
  | succ m ih =>
    obtain ⟨u, hu, ht⟩ := andThen_eq_next.mp run
    have before : R s u := runEvents_rel refl trans N _ s u hu
    exact trans _ _ _ before (trans _ _ _ (unit u (n - (m + 1)) (by omega)) (ih (by omega) _ ht))

end

end Sys2Proof.Machine
end

section
/-! PROOFS. Memory changes only where the recorded copies store. -/

namespace Sys2Proof.Machine

/-- From `s` to `t` the logs only grow, and memory changes only at addresses of `A` and where a call recorded between them stores
(20_memory R65, R67). -/
structure State.StoresWithin (A : Word → Prop) (s t : State) : Prop where
  diagLog : s.diagLog <+: t.diagLog
  busLog : ∃ calls, t.busLog = s.busLog ++ calls ∧
    ∀ a, ¬ A a → (∀ c ∈ calls, ¬ storesTo c a) → t.readByte a = s.readByte a

theorem State.NoStore.storesWithin {A : Word → Prop} {s t : State} (h : s.NoStore t) : s.StoresWithin A t where
  diagLog := h.diagLog
  busLog := by
    obtain ⟨calls, grown⟩ := h.busLog
    exact ⟨calls, grown.symm, fun a _ _ => by rw [State.readByte, h.mem, State.readByte]⟩

theorem State.StoresWithin.trans {A : Word → Prop} {s t u : State} (h : s.StoresWithin A t) (k : t.StoresWithin A u) :
    s.StoresWithin A u where
  diagLog := h.diagLog.trans k.diagLog
  busLog := by
    obtain ⟨first, grown, frame⟩ := h.busLog
    obtain ⟨second, grown', frame'⟩ := k.busLog
    refine ⟨first ++ second, by rw [grown', grown, List.append_assoc], fun a outside none => ?_⟩
    have later := frame' a outside fun c hc => none c (List.mem_append_right _ hc)
    have earlier := frame a outside fun c hc => none c (List.mem_append_left _ hc)
    exact later.trans earlier

theorem State.StoresWithin.mono {A B : Word → Prop} (sub : ∀ a, A a → B a) {s t : State} (h : s.StoresWithin A t) :
    s.StoresWithin B t where
  diagLog := h.diagLog
  busLog := by
    obtain ⟨calls, grown, frame⟩ := h.busLog
    exact ⟨calls, grown, fun a outside => frame a fun inA => outside (sub a inA)⟩

/-- Unit `k` of a copy goes where the recorded call says that it stores (20_memory R67). -/
theorem State.StoresWithin.moveUnit (s : State) (src dst : Word) (p : TransferPlan) (k : Nat) (hk : k < p.units) :
    s.StoresWithin (storesTo (copyCall src dst p))
      (s.moveUnit (advance src p.srcStep k) (advance dst p.dstStep k) p.width) where
  diagLog := by rw [State.moveUnit_diagLog]
  busLog := by
    refine ⟨[], by simp, fun a outside _ => s.readByte_moveUnit_other _ _ a p.width fun j hj here => outside ?_⟩
    exact ⟨k, j, Nat.mul_lt_mul_of_pos_right hk (by omega), hj, here⟩

/-- The units of a copy store within its call, which the copy records when it begins. -/
theorem State.StoresWithin.copyLifts : CopyLifts (State.StoresWithin fun _ => False) where
  noStore _ _ := State.NoStore.storesWithin
  trans _ _ _ := .trans
  copy _ N src dst p s t run := by
    have units : (s.beginCopy (copyCall src dst p)).StoresWithin (storesTo (copyCall src dst p)) t :=
      copyUnits_rel (fun u => (State.NoStore.refl u).storesWithin) (fun _ _ _ => .trans)
        (fun op u v nested => (N op u v nested).mono fun _ => False.elim)
        (fun u k hk => .moveUnit u src dst p k hk) _ p.units le_rfl _ t run
    obtain ⟨calls, grown, frame⟩ := units.busLog
    refine ⟨units.diagLog, copyCall src dst p :: calls, by simp [grown], fun a _ none => ?_⟩
    exact frame a (none _ List.mem_cons_self) fun c hc => none c (List.mem_cons_of_mem _ hc)

/-- Settles O12: an operation stores only by its copies, and each records its call before its units move. -/
theorem onlyCopiesStoreToMemory : Obligations.OnlyCopiesStoreToMemory := by
  intro op s t run
  obtain ⟨⟨g, grownDiag⟩, calls, grown, frame⟩ := State.StoresWithin.copyLifts.exec op s t run
  exact ⟨⟨g, grownDiag.symm⟩, calls, grown, fun a => frame a id⟩

end Sys2Proof.Machine
end

section
/-! PROOFS. The bound on nested operations never decides: a copy whose script holds operations has taken an entry of it, so what is
nested runs with a shorter script, and never reaches the bound. -/

namespace Sys2Proof.Machine

/-- What is left of the script in `t` is an end part of what was left of it in `s` (log 8). -/
abbrev State.ScriptTaken (s t : State) : Prop := t.copyEnv <:+ s.copyEnv

theorem State.ScriptTaken.of_eq {s t : State} (h : t.copyEnv = s.copyEnv) : s.ScriptTaken t := by
  rw [State.ScriptTaken, h]

/-- Only the beginning of a copy takes an entry, and nothing adds one. -/
theorem State.ScriptTaken.copyLifts : CopyLifts State.ScriptTaken where
  noStore _ _ h := .of_eq h.copyEnv
  trans _ _ _ h k := k.trans h
  copy _ N _ _ p s t run :=
    have rest : (s.beginCopy _).ScriptTaken t :=
      copyUnits_rel (fun _ => .of_eq rfl) (fun _ _ _ h k => k.trans h) N
        (fun u _ _ => .of_eq (u.moveUnit_copyEnv _ _ _)) _ p.units le_rfl _ t run
    rest.trans (List.tail_suffix _)

/-- `N` and `N'` run a nested operation alike where fewer than `k` entries of the script are left. -/
def AgreeBelow (k : Nat) (N N' : Nest) : Prop := ∀ op s, s.copyEnv.length < k → N op s = N' op s

/-- Sequences agree when their first parts do, and their second parts on what the first leaves. -/
theorem andThen_congr {o o' : Out} {f f' : State → Out} (first : o = o') (rest : ∀ t, o' = .next t → f t = f' t) :
    andThen o f = andThen o' f' := by
  subst first
  cases o with
  | next t => exact rest t rfl
  | fault | refused => rfl

section
variable {k : Nat} {N N' : Nest} (alike : AgreeBelow k N N') (shrinks : NestRel State.ScriptTaken N')
include alike shrinks

theorem runEvents_agree (es : List CopyEvent) (s : State) (hs : s.copyEnv.length < k) :
    runEvents N es s = runEvents N' es s := by
  induction es generalizing s with
  | nil => rfl
  | cons e rest ih =>
    exact andThen_congr (alike e.op s hs) fun t ht => ih t ((shrinks _ _ _ ht).length_le.trans_lt hs)

theorem copyUnits_agree (events : List CopyEvent) (src dst : Word) (n : Nat) (p : TransferPlan) (m : Nat) (s : State)
    (hs : s.copyEnv.length < k) : copyUnits N events src dst n p m s = copyUnits N' events src dst n p m s := by
  induction m generalizing s with
  | zero => exact runEvents_agree alike shrinks _ s hs
  | succ m ih =>
    refine andThen_congr (runEvents_agree alike shrinks _ s hs) fun t ht => ih _ ?_
    have taken : s.ScriptTaken t :=
      runEvents_rel State.ScriptTaken.copyLifts.refl State.ScriptTaken.copyLifts.trans shrinks _ s t ht
    simpa using taken.length_le.trans_lt hs

/-- A copy without an entry nests nothing, and one with an entry leaves fewer. -/
theorem copy_agree (src dst : Word) (p : TransferPlan) (s : State) (hs : s.copyEnv.length ≤ k) :
    copy N src dst p s = copy N' src dst p s := by
  by_cases quiet : s.copyEnv = []
  · rw [copy_quiet N src dst p s quiet, copy_quiet N' src dst p s quiet]
  · have entry := List.length_pos_of_ne_nil quiet
    exact copyUnits_agree alike shrinks _ src dst _ p _ _ (by rw [State.beginCopy_copyEnv, List.length_tail]; omega)

theorem Composed.agree {s : State} {o : Nest → Out} (h : Composed s o) (hs : s.copyEnv.length ≤ k) : o N = o N' := by
  induction h with
  | next | fault | refused => rfl
  | copy s src dst p => exact copy_agree alike shrinks src dst p s hs
  | after update _ ih => exact ih (update.copyEnv ▸ hs)
  | andThen composed _ first rest =>
    refine andThen_congr (first hs) fun t ht => rest t ?_
    exact (composed.rel State.ScriptTaken.copyLifts shrinks t ht).length_le.trans hs

end

/-- A larger bound changes nothing where fewer entries than the bound are left. -/
theorem nested_agreeBelow (depth extra : Nat) : AgreeBelow depth (nested (depth + extra)) (nested depth) := by
  induction depth with
  | zero => intro op s hs; exact absurd hs (Nat.not_lt_zero _)
  | succ depth ih =>
    intro op s hs
    rw [Nat.add_right_comm]
    exact (Composed.applyEnvOp op s).agree ih (State.ScriptTaken.copyLifts.nested depth) (Nat.le_of_lt_succ hs)

/-- A larger bound than the one of its start state changes no answer of an operation. -/
theorem Composed.more_nest {s : State} {o : Nest → Out} (h : Composed s o) (extra : Nat) :
    o (nested (s.copyEnv.length + extra)) = o s.nest :=
  h.agree (nested_agreeBelow _ extra) (State.ScriptTaken.copyLifts.nested _) le_rfl

/-- Settles O14: every shared operation is composed of updates and copies, and a copy never uses the bound up. -/
theorem nestingBoundNeverDecides : Obligations.NestingBoundNeverDecides := by
  intro s extra more
  refine ⟨fun i => ⟨?_, ?_, ?_, ?_, ?_⟩, fun id level => ?_, fun r v => ?_, fun bank r v => ?_, fun bank offset v => ?_⟩
  · exact (Composed.minorTransfer i s).more_nest extra
  · exact (Composed.executeActivation i s).more_nest extra
  · exact (Composed.attemptStart i s).more_nest extra
  · exact (Composed.linkLoadOp i s).more_nest extra
  · exact (Composed.pullTick i s).more_nest extra
  · exact (Composed.signal id level s).more_nest extra
  · exact (Composed.writeReg r v s).more_nest extra
  · exact (Composed.writeVia bank r v s).more_nest extra
  · exact (Composed.writeAddress bank offset v s).more_nest extra

end Sys2Proof.Machine
end

section
/-! PROOFS. The formats read back: words from their bytes, a descriptor from its words, an identifier from its number. -/

namespace Sys2Proof.Machine

/-! ### Words of a byte array -/

/-- Four bytes of a word at the front are word 0 (20_memory R61). -/
theorem wordAt_bytesOfWord_zero (w : Word) (rest : List Byte) : wordAt (bytesOfWord w ++ rest) 0 = w :=
  wordOfBytes_bytesOfWord w

/-- Behind the four bytes of a word the words count from 0 again. -/
theorem wordAt_bytesOfWord_succ (w : Word) (rest : List Byte) (j : Nat) :
    wordAt (bytesOfWord w ++ rest) (j + 1) = wordAt rest j := rfl

/-- A descriptor is what its first four words stand for, whatever follows them (30_encoding R91, R96). -/
theorem decodeDescriptor_words (w0 w1 w2 w3 : Word) (rest : List Byte) :
    decodeDescriptor (bytesOfWord w0 ++ (bytesOfWord w1 ++ (bytesOfWord w2 ++ (bytesOfWord w3 ++ rest)))) =
      descOfWords w0 w1 w2 w3 := by
  simp only [decodeDescriptor, wordAt_bytesOfWord_zero, wordAt_bytesOfWord_succ]

/-! ### The descriptor codec -/

/-- The control word carries every field of word 0 at the bits the decoder reads (30_encoding R92). -/
theorem withControlWord_controlWord (d e : TransferDescriptor) :
    withControlWord (controlWord d) e =
      { d with
        sourceAddress := e.sourceAddress, destinationAddress := e.destinationAddress
        linkMode := e.linkMode, link := e.link, linkAddress := e.linkAddress } := by
  simp (disch := decide) only [withControlWord, controlWord, BitVec.extractLsb'_append_eq_of_le,
    BitVec.extractLsb'_append_eq_of_add_le, BitVec.getLsbD_append, Nat.reduceLT, reduceIte, Nat.reduceSub]
  simp

/-- The link word carries the link fields at the bits the decoder reads (30_encoding R95). -/
theorem withLinkWord_linkWord (d e : TransferDescriptor) :
    withLinkWord (linkWord d) e = { e with linkMode := d.linkMode, link := d.link, linkAddress := d.linkAddress } := by
  simp (disch := decide) only [withLinkWord, linkWord, BitVec.extractLsb'_append_eq_of_le, BitVec.getLsbD_append,
    Nat.reduceLT, reduceIte, Nat.reduceSub]
  simp

/-- `decode(encode(d))` is `d` (40_codec R132). -/
theorem decodeDescriptor_encodeDescriptor (d : TransferDescriptor) : decodeDescriptor (encodeDescriptor d) = d := by
  simp only [encodeDescriptor, List.append_assoc, decodeDescriptor_words, descOfWords, withControlWord_controlWord,
    withLinkWord_linkWord]

@[simp] theorem encodeDescriptor_length (d : TransferDescriptor) : (encodeDescriptor d).length = 32 := rfl

/-! ### The signal identifier -/

/-- The number of a triple reads back as the triple (30_encoding R110, R121). -/
theorem sigIdOfWord_wordOfSigId (k : SignalId) : sigIdOfWord (wordOfSigId k) = k := by
  simp (disch := decide) only [sigIdOfWord, wordOfSigId, BitVec.extractLsb'_append_eq_of_le,
    BitVec.extractLsb'_append_eq_of_add_le, BitVec.getLsbD_append, Nat.reduceLT, reduceIte, Nat.reduceSub]
  simp

/-- Two numbers have the same `n` bits from `lo` on exactly when they agree on each of them. -/
theorem extractLsb'_eq_iff {w : Nat} (a b : BitVec w) (lo n : Nat) :
    a.extractLsb' lo n = b.extractLsb' lo n ↔ ∀ j, lo ≤ j → j < lo + n → a.getLsbD j = b.getLsbD j := by
  constructor
  · intro same j low high
    have bit := congrArg (·.getLsbD (j - lo)) same
    have here : j - lo < n := by omega
    have there : lo + (j - lo) = j := by omega
    simpa only [BitVec.getLsbD_extractLsb', here, there, decide_true, Bool.true_and] using bit
  · intro agree
    apply BitVec.eq_of_getLsbD_eq
    intro j hj
    simp only [BitVec.getLsbD_extractLsb', agree (lo + j) (by omega) (by omega)]

/-- Settles O5: the triple reads bits 3:0, 9:4 and 12, and no other. -/
theorem identifierIgnoresUnusedBits : Obligations.IdentifierIgnoresUnusedBits := by
  intro a b
  have fields : sigIdOfWord a = sigIdOfWord b ↔ a.extractLsb' 4 6 = b.extractLsb' 4 6 ∧
      a.extractLsb' 0 4 = b.extractLsb' 0 4 ∧ a.getLsbD 12 = b.getLsbD 12 := SignalId.mk.injEq .. ▸ Iff.rfl
  rw [fields, extractLsb'_eq_iff, extractLsb'_eq_iff]
  constructor
  · rintro ⟨source, signal, single⟩ j (below | rfl)
    · by_cases low : j < 4
      · exact signal j (by omega) (by omega)
      · exact source j (by omega) (by omega)
    · exact single
  · intro agree
    exact ⟨fun j _ _ => agree j (by omega), fun j _ _ => agree j (by omega), agree 12 (by omega)⟩

/-! ### Words by hand, and the fields of a word -/

/-- Settles O3: the decoders evaluated on the spec's own words. -/
theorem sampleWordsDecode : Obligations.SampleWordsDecode := by
  unfold Obligations.SampleWordsDecode
  decide

/-! The code functions are the tables of 30_encoding R97, R98, R100 and R101. -/

theorem kindTag_eq_table : ∀ c : BitVec 2, kindTag c = kindTable.getD c.toNat .invalid := by decide
theorem blockTag_eq_table : ∀ c : BitVec 4, blockTag c = blockTable.getD c.toNat .all := by decide
theorem incTag_eq_table : ∀ c : BitVec 2, incTag c = incTable.getD c.toNat .none := by decide
theorem sizeTag_eq_table : ∀ c : BitVec 2, sizeTag c = sizeTable.getD c.toNat .reservedSize := by decide

/-- A control word of zeros stands for the zero descriptor's fields. -/
theorem withControlWord_zero : withControlWord 0 .zero = TransferDescriptor.zero := by decide

/-- A descriptor that is 0 but for one of its words 0 to 3 stands for that word and zeros. -/
theorem decodeDescriptor_loneWord (w : Word) :
    decodeDescriptor (loneWord 0 w) = descOfWords w 0 0 0 ∧ decodeDescriptor (loneWord 1 w) = descOfWords 0 w 0 0 ∧
    decodeDescriptor (loneWord 2 w) = descOfWords 0 0 w 0 ∧ decodeDescriptor (loneWord 3 w) = descOfWords 0 0 0 w :=
  ⟨decodeDescriptor_words w 0 0 0 (List.replicate 16 0), decodeDescriptor_words 0 w 0 0 (List.replicate 16 0),
    decodeDescriptor_words 0 0 w 0 (List.replicate 16 0), decodeDescriptor_words 0 0 0 w (List.replicate 16 0)⟩

/-- Bytes 16 to 31 stand for nothing (30_encoding R96). -/
theorem decodeDescriptor_reservedWords (w : Word) :
    decodeDescriptor (List.replicate 16 0 ++ bytesOfWord w ++ bytesOfWord w ++ bytesOfWord w ++ bytesOfWord w) =
      descOfWords 0 0 0 0 :=
  decodeDescriptor_words 0 0 0 0 (bytesOfWord w ++ bytesOfWord w ++ bytesOfWord w ++ bytesOfWord w)

/-- Settles O7: each word is decoded alone, beside words of zeros, and the code functions are the spec's tables. -/
theorem encodedWordsDeliverTheirFields : Obligations.EncodedWordsDeliverTheirFields := by
  intro s w
  obtain ⟨word0, word1, word2, word3⟩ := decodeDescriptor_loneWord w
  simp only [← kindTag_eq_table, ← blockTag_eq_table, ← incTag_eq_table, ← sizeTag_eq_table]
  refine ⟨?_, ?_, ?_, ?_, ?_, rfl⟩
  · rw [exec, execDescW0, word0]; rfl
  · rw [exec, execDescW1, word1, descOfWords, withControlWord_zero]; rfl
  · rw [exec, execDescW2, word2, descOfWords, withControlWord_zero]; rfl
  · rw [exec, execDescW3, word3, descOfWords, withControlWord_zero]; rfl
  · rw [exec, execDescW4to7, decodeDescriptor_reservedWords, descOfWords, withControlWord_zero]; rfl

end Sys2Proof.Machine
end

section
/-! PROOFS. The packet format: the encoder and the decoder agree (log 2). -/

namespace Sys2Proof

open Sys2Proof.Machine

/-! ### What the decoder reads from an encoded operand -/

theorem takeWord_bytesOfWord (w : Word) (r : List Byte) (f : Word → Instr) :
    takeWord (bytesOfWord w ++ r) f = .ok (f w, r) :=
  congrArg (fun v => Except.ok (f v, r)) (wordOfBytes_bytesOfWord w)

/-- A channel of a 32-channel controller fits its byte (decision D7). -/
theorem channelByte_toNat {i : Nat} (h : channelOk i) : (channelByte i).toNat = i := by
  rw [channelByte, BitVec.toNat_ofNat, Nat.mod_eq_of_lt (by omega)]

theorem takeChannel_channelByte {i : Nat} (h : channelOk i) (r : List Byte) (f : Nat → Instr) :
    takeChannel (channelByte i) r f = .ok (f i, r) := by
  rw [takeChannel, channelByte_toNat h, if_pos h]

theorem takeChannelWord_channelByte {i : Nat} (h : channelOk i) (w : Word) (r : List Byte) (f : Nat → Word → Instr) :
    takeChannelWord (channelByte i) (bytesOfWord w ++ r) f = .ok (f i w, r) := by
  rw [takeChannelWord, channelByte_toNat h, if_pos h, takeWord_bytesOfWord]

/-- The two selector bytes pass the decoder's range checks. -/
theorem takeReqsel_channelByte {i : Nat} (h : channelOk i) (source : BitVec 6) (signal : BitVec 4) (r : List Byte) :
    takeReqsel (channelByte i) ((0#2 ++ source) :: (0#4 ++ signal) :: r) = .ok (.wrReqsel i source signal, r) := by
  have sourceValue : (0#2 ++ source).toNat = source.toNat := (toNat_append_arith 0#2 source).trans (by simp)
  have signalValue : (0#4 ++ signal).toNat = signal.toNat := (toNat_append_arith 0#4 signal).trans (by simp)
  have fits : ¬ (64 ≤ (0#2 ++ source).toNat ∨ 16 ≤ (0#4 ++ signal).toNat) := by omega
  rw [takeReqsel, channelByte_toNat h, if_neg (by omega), if_neg fits, BitVec.extractLsb'_append_eq_right,
    BitVec.extractLsb'_append_eq_right]

theorem takeSig_level (id : Word) (level : Bool) (r : List Byte) :
    takeSig (if level then 1 else 0) (bytesOfWord id ++ r) = .ok (.sig id level, r) := by
  cases level with
  | false => exact takeWord_bytesOfWord id r (.sig · false)
  | true => exact takeWord_bytesOfWord id r (.sig · true)

theorem takeMatches_channelByte {i : Nat} (h : channelOk i) (k : SignalId) (r : List Byte) :
    takeMatches (channelByte i) (bytesOfWord (wordOfSigId k) ++ r) = .ok (.matchesId i k, r) := by
  rw [takeMatches, takeChannelWord_channelByte h, sigIdOfWord_wordOfSigId]

theorem takeBytes_append {b : List Byte} (h : bytesOk b) (r : List Byte) :
    takeBytes 0 (b ++ r) = .ok (.decodeDesc b, r) := by
  have enough : 32 ≤ (b ++ r).length := by rw [List.length_append]; omega
  rw [takeBytes, if_pos rfl, if_pos enough, List.take_left' h, List.drop_left' h]

theorem takeDescriptor_encodeDescriptor (d : TransferDescriptor) (r : List Byte) :
    takeDescriptor 0 (encodeDescriptor d ++ r) = .ok (.encodeDesc d, r) := by
  have size := encodeDescriptor_length d
  have enough : 32 ≤ (encodeDescriptor d ++ r).length := by rw [List.length_append]; omega
  rw [takeDescriptor, if_pos rfl, if_pos enough, List.take_left' size, List.drop_left' size,
    decodeDescriptor_encodeDescriptor]

/-! ### What the decoder reads from an encoded first word -/

/-- Class 2: the selector chooses the operand reader. -/
theorem decode_namedHeader (selector : BitVec 6) (low : Byte) (r : List Byte) :
    decode (namedHeader selector low ++ r) = decodeNamed selector.toNat low r := by
  have cls : (2#2 ++ selector).extractLsb' 6 2 = 2#2 := BitVec.extractLsb'_append_eq_left
  have sel : (2#2 ++ selector).extractLsb' 0 6 = selector := BitVec.extractLsb'_append_eq_right
  simp only [decode, namedHeader, List.cons_append, List.nil_append, cls, sel]
  rfl

/-- The parts of a register address come back (30_encoding R112). -/
theorem addressHeader_parts (cls bank : BitVec 2) (offset : BitVec 12) :
    let hi : Byte := cls ++ bank ++ offset.extractLsb' 8 4
    hi.extractLsb' 6 2 = cls ∧ hi.extractLsb' 4 2 = bank ∧ hi.extractLsb' 0 4 ++ offset.extractLsb' 0 8 = offset := by
  have whole : offset.extractLsb' 8 4 ++ offset.extractLsb' 0 8 = offset := BitVec.extractLsb'_append_extractLsb'
  simp (disch := decide) only [BitVec.extractLsb'_append_eq_of_le, BitVec.extractLsb'_append_eq_of_add_le, Nat.reduceSub,
    BitVec.extractLsb'_eq_self, whole, and_self]

/-- Class 0. -/
theorem decode_writeHeader (bank : BitVec 2) (offset : BitVec 12) (r : List Byte) :
    decode (addressHeader 0 bank offset ++ r) = takeWord r (writeAt bank offset) := by
  obtain ⟨cls, bk, off⟩ := addressHeader_parts 0 bank offset
  simp only [decode, addressHeader, List.cons_append, List.nil_append, cls, bk, off]
  rfl

/-- Class 1. -/
theorem decode_readHeader (bank : BitVec 2) (offset : BitVec 12) (r : List Byte) :
    decode (addressHeader 1 bank offset ++ r) = .ok (.rdAny bank offset, r) := by
  obtain ⟨cls, bk, off⟩ := addressHeader_parts 1 bank offset
  simp only [decode, addressHeader, List.cons_append, List.nil_append, cls, bk, off]
  rfl

/-- Settles O1: the first word leads the decoder to the row's own operand reader, and that reads the operands back. The rows are
grouped by the operands they have. -/
theorem decodeReadsEncodedOperation : Obligations.DecodeReadsEncodedOperation := by
  intro i rest wf
  cases i with
  | reset | rdEnable | rdDisable | rdStatus | rdDone | rdIntflag | rdInten | rdForce | rdLinkload | rdReqdisable
  | updateInterrupts => exact decode_namedHeader _ 0 rest
  | wrEnable w | wrDisable w | wrStatus w | wrDone w | wrIntflag w | wrInten w | wrForce w | wrLinkload w
  | wrReqdisable w | descW0 w | descW1 w | descW2 w | descW3 w | descW4to7 w | sigId w =>
    rw [encode, List.append_assoc, decode_namedHeader]
    exact takeWord_bytesOfWord w rest _
  | sig id level =>
    rw [encode, List.append_assoc, decode_namedHeader]
    exact takeSig_level id level rest
  | tick n | rdReqsel n | rdConfig n | rdLoop n | rdCtrl n | rdSrcaddr n | rdDstaddr n | rdLink n | shouldPull n
  | attemptStart n | executeActivation n | minorTransfer n | setDone n | chainLoad n | linkLoadOp n | signalIsOn n =>
    rw [encode, decode_namedHeader]
    exact takeChannel_channelByte (of_decide_eq_true wf) rest _
  | wrConfig n w | wrLoop n w | wrCtrl n w | wrSrcaddr n w | wrDstaddr n w | wrLink n w =>
    rw [encode, List.append_assoc, decode_namedHeader]
    exact takeChannelWord_channelByte (of_decide_eq_true wf) w rest _
  | wrReqsel n source signal =>
    rw [encode, List.append_assoc, decode_namedHeader]
    exact takeReqsel_channelByte (of_decide_eq_true wf) source signal rest
  | matchesId n k =>
    rw [encode, List.append_assoc, decode_namedHeader]
    exact takeMatches_channelByte (of_decide_eq_true wf) k rest
  | wrPlain r v | wrSet r v | wrClr r v | wrTgl r v =>
    rw [encode, List.append_assoc, decode_writeHeader]
    exact takeWord_bytesOfWord v rest _
  | rdAny bank r => exact decode_readHeader bank r rest
  | decodeDesc b =>
    rw [encode, List.append_assoc, decode_namedHeader]
    exact takeBytes_append (of_decide_eq_true wf) rest
  | encodeDesc d =>
    rw [encode, List.append_assoc, decode_namedHeader]
    exact takeDescriptor_encodeDescriptor d rest

end Sys2Proof
end

section
/-! PROOFS. What the decoder accepts (log 2). -/

namespace Sys2Proof

open Sys2Proof.Machine

/-- An operation that `d` accepts from the operands at the head of `r` is well formed, and what is left is no longer than `r`. -/
def Decoded.Sound (d : Decoded) (r : List Byte) : Prop :=
  ∀ i rest, d = .ok (i, rest) → i.wellFormed = true ∧ rest.length ≤ r.length

/-! ### One lemma per operand reader -/

theorem Decoded.Sound.error (e : DecodeError) (r : List Byte) : Decoded.Sound (.error e) r := by
  intro i rest accepted
  cases accepted

theorem Decoded.Sound.ok {i : Instr} {rest r : List Byte} (wf : i.wellFormed = true) (shorter : rest.length ≤ r.length) :
    Decoded.Sound (.ok (i, rest)) r := by
  intro i' rest' accepted
  cases accepted
  exact ⟨wf, shorter⟩

theorem takeWord_sound (r : List Byte) (f : Word → Instr) (wf : ∀ w, (f w).wellFormed = true) : (takeWord r f).Sound r := by
  unfold takeWord
  split
  · exact .ok (wf _) (by simp only [List.length_cons]; omega)
  · exact .error _ r

theorem takeBare_sound (low : Byte) (r : List Byte) (i : Instr) (wf : i.wellFormed = true) : (takeBare low r i).Sound r := by
  unfold takeBare
  split
  · exact .ok wf le_rfl
  · exact .error _ r

theorem takeLoneWord_sound (low : Byte) (r : List Byte) (f : Word → Instr) (wf : ∀ w, (f w).wellFormed = true) :
    (takeLoneWord low r f).Sound r := by
  unfold takeLoneWord
  split
  · exact takeWord_sound r f wf
  · exact .error _ r

theorem takeChannel_sound (low : Byte) (r : List Byte) (f : Nat → Instr) (wf : ∀ i, channelOk i → (f i).wellFormed = true) :
    (takeChannel low r f).Sound r := by
  unfold takeChannel
  split
  next h => exact .ok (wf _ h) le_rfl
  next => exact .error _ r

theorem takeChannelWord_sound (low : Byte) (r : List Byte) (f : Nat → Word → Instr)
    (wf : ∀ i, channelOk i → ∀ w, (f i w).wellFormed = true) : (takeChannelWord low r f).Sound r := by
  unfold takeChannelWord
  split
  next h => exact takeWord_sound r _ (wf _ h)
  next => exact .error _ r

theorem takeSig_sound (low : Byte) (r : List Byte) : (takeSig low r).Sound r := by
  unfold takeSig
  split
  · exact takeWord_sound r _ fun _ => rfl
  · split
    · exact takeWord_sound r _ fun _ => rfl
    · exact .error _ r

theorem takeReqsel_sound (low : Byte) (r : List Byte) : (takeReqsel low r).Sound r := by
  unfold takeReqsel
  split
  · split
    · exact .error _ _
    next h =>
      split
      · exact .error _ _
      · exact .ok (decide_eq_true (by omega)) (by simp only [List.length_cons]; omega)
  · exact .error _ _

theorem takeMatches_sound (low : Byte) (r : List Byte) : (takeMatches low r).Sound r :=
  takeChannelWord_sound low r _ fun _ h _ => decide_eq_true h

theorem takeBytes_sound (low : Byte) (r : List Byte) : (takeBytes low r).Sound r := by
  unfold takeBytes
  split
  · split
    next h => exact .ok (decide_eq_true (List.length_take_of_le h)) (List.drop_sublist 32 r).length_le
    next => exact .error _ r
  · exact .error _ r

theorem takeDescriptor_sound (low : Byte) (r : List Byte) : (takeDescriptor low r).Sound r := by
  unfold takeDescriptor
  split
  · split
    · exact .ok rfl (List.drop_sublist 32 r).length_le
    · exact .error _ r
  · exact .error _ r

/-! ### The decoder -/

theorem writeAt_wellFormed (bank : BitVec 2) (offset : BitVec 12) (v : Word) : (writeAt bank offset v).wellFormed = true := by
  unfold writeAt
  split <;> rfl

/-- The selectors, grouped by their operand reader. -/
theorem decodeNamed_sound (selector : Nat) (low : Byte) (r : List Byte) : (decodeNamed selector low r).Sound r :=
  match selector with
  | 0 | 4 | 6 | 8 | 10 | 12 | 14 | 16 | 18 | 20 | 52 => takeBare_sound low r _ rfl
  | 3 | 5 | 7 | 9 | 11 | 13 | 15 | 17 | 19 | 35 | 36 | 37 | 38 | 39 | 40 => takeLoneWord_sound low r _ fun _ => rfl
  | 2 | 22 | 24 | 26 | 28 | 30 | 32 | 34 | 43 | 44 | 45 | 46 | 47 | 48 | 49 | 51 =>
    takeChannel_sound low r _ fun _ h => decide_eq_true h
  | 23 | 25 | 27 | 29 | 31 | 33 => takeChannelWord_sound low r _ fun _ h _ => decide_eq_true h
  | 1 => takeSig_sound low r
  | 21 => takeReqsel_sound low r
  | 41 => takeBytes_sound low r
  | 42 => takeDescriptor_sound low r
  | 50 => takeMatches_sound low r
  | _ + 53 => .error _ r

/-- What is left is shorter than the packet: its first word is gone before the operands are read. -/
theorem Decoded.Sound.behind_word {d : Decoded} {r : List Byte} (h : d.Sound r) {i : Instr} {rest : List Byte}
    (accepted : d = .ok (i, rest)) (lo hi : Byte) : i.wellFormed = true ∧ rest.length < (lo :: hi :: r).length := by
  obtain ⟨wf, shorter⟩ := h i rest accepted
  exact ⟨wf, by simp only [List.length_cons]; omega⟩

/-- Settles O2, by the class of the packet's first word. -/
theorem decodedOperationIsWellFormed : Obligations.DecodedOperationIsWellFormed := by
  intro b rest i accepted
  unfold decode at accepted
  split at accepted
  next lo hi r =>
    split at accepted
    · exact (takeWord_sound r _ (writeAt_wellFormed _ _)).behind_word accepted lo hi
    · exact (Decoded.Sound.ok rfl le_rfl).behind_word accepted lo hi
    · exact (decodeNamed_sound _ lo r).behind_word accepted lo hi
    · cases accepted
  next => cases accepted

end Sys2Proof
end

section
/-! PROOFS. The units of a minor transfer (30_encoding R98, R100, R101, R105, R107, R108). -/

namespace Sys2Proof.Machine

theorem remaining_pos (d : TransferDescriptor) : 1 ≤ remaining d := Nat.le_add_left 1 _

/-- The 11 bits of the count hold at most 2048 units (10_state R23). -/
theorem remaining_le (d : TransferDescriptor) : remaining d ≤ 2048 := d.transferCount.isLt

theorem transferUnits_all {d : TransferDescriptor} (h : d.requestMode = .all) : transferUnits d = some (remaining d) := by
  rw [transferUnits, h]

theorem transferUnits_block {d : TransferDescriptor} (h : d.requestMode = .block) :
    transferUnits d = (blockUnits d.blockSize (remaining d)).map (min (remaining d)) := by
  rw [transferUnits, h]

/-- A block that has units has at least one of them where at least one remains. -/
theorem blockUnits_pos {b : BlockSize} {rem units : Nat} (hrem : 1 ≤ rem) (h : blockUnits b rem = some units) :
    1 ≤ units := by
  cases b with
  | all => exact Option.some.inj h ▸ hrem
  | reservedBlock6 | reservedBlock8 => cases h
  | _ => cases h; decide

theorem unitBytes_le {u : UnitSize} {w : Nat} (h : unitBytes u = some w) : w ≤ 4 := by
  cases u with
  | reservedSize => cases h
  | _ => cases h; decide

/-- The table holds what the fixed codes stand for, whatever remains. -/
theorem blockUnits_of_mem_table (rem : Nat) : ∀ e ∈ blockUnitsTable, blockUnits e.1 rem = some e.2 := by
  simp [blockUnitsTable, blockUnits]

/-- A minor transfer moves at least one unit and at most what remains. -/
theorem transferUnits_bounds {d : TransferDescriptor} {n : Nat} (h : transferUnits d = some n) :
    1 ≤ n ∧ n ≤ remaining d := by
  cases mode : d.requestMode with
  | all =>
    obtain rfl : remaining d = n := by simpa [transferUnits_all mode] using h
    exact ⟨remaining_pos d, le_rfl⟩
  | block =>
    obtain ⟨b, hb, rfl⟩ := Option.map_eq_some_iff.mp (transferUnits_block mode ▸ h)
    exact ⟨le_min (remaining_pos d) (blockUnits_pos (remaining_pos d) hb), min_le_left _ _⟩

/-- Settles O50: the mode, then the block code, decide the units; the bounds follow from those of the count and the widths. -/
theorem unitsOfAMinorTransfer : Obligations.UnitsOfAMinorTransfer := by
  refine ⟨?bounds, ?units, ⟨rfl, rfl, rfl, rfl⟩, fun w => ⟨Nat.mul_one w, Nat.mul_comm w 2, Nat.mul_comm w 4, rfl⟩⟩
  case bounds =>
    intro d n w hn hw
    obtain ⟨low, high⟩ := transferUnits_bounds hn
    refine ⟨fun mode => ?_, fun mode => ?_, low, high, remaining_le d, ?_⟩
    · exact Option.some.inj (hn.symm.trans (transferUnits_all mode))
    · obtain ⟨b, hb, same⟩ := Option.map_eq_some_iff.mp (transferUnits_block mode ▸ hn)
      exact ⟨b, hb, same.symm⟩
    · calc n * w ≤ 2048 * 4 := Nat.mul_le_mul (high.trans (remaining_le d)) (unitBytes_le hw)
        _ = 8192 := rfl
  case units =>
    intro d
    refine ⟨rfl, transferUnits_all, fun mode => ⟨fun e he code => ?_, fun code => ?_, fun code => ?_⟩⟩
    · rw [transferUnits_block mode, code, blockUnits_of_mem_table _ e he, Option.map_some]
    · rw [transferUnits_block mode, code, blockUnits, Option.map_some, Nat.min_self]
    · rw [transferUnits_block mode]
      rcases code with code | code <;> rw [code] <;> rfl

end Sys2Proof.Machine
end

section
/-! PROOFS. Register addresses: an offset that `REG_OFFSET` gives a register selects it, and a read of a register is its own row
(30_encoding R112, R114). -/

namespace Sys2Proof.Machine

/-! ### From an address to a register -/

/-- Where offsets are distinct, the register at an offset is the one found there. -/
theorem find_regOffset {l : List (RegName × Nat)} (distinct : l.Pairwise fun a b => a.2 ≠ b.2) {r : RegName} {n : Nat}
    (mem : (r, n) ∈ l) : l.find? (fun e => e.2 = n) = some (r, n) := by
  induction l with
  | nil => cases mem
  | cons e rest ih =>
    obtain ⟨apart, distinct⟩ := List.pairwise_cons.mp distinct
    rcases List.mem_cons.mp mem with rfl | later
    · simp
    · have other : e.2 ≠ n := apart (r, n) later
      rw [List.find?_cons_of_neg (by simpa using other), ih distinct later]

/-- The place of an address in `REG_OFFSET`: its offset, or in a controller with one bank the whole address (30_encoding R112). -/
abbrev addressPlace (p : Params) (bank : BitVec 2) (offset : BitVec 12) : Nat :=
  if p.hasAliasBanks then offset.toNat else (bank ++ offset).toNat

theorem resolve_of_mem {p : Params} (distinct : p.regOffset.Pairwise fun a b => a.2 ≠ b.2) {bank : BitVec 2}
    {offset : BitVec 12} {r : RegName} (mem : (r, addressPlace p bank offset) ∈ p.regOffset) :
    ∃ b, resolve p bank offset = some (b, r) ∧ (bank = 0 ∨ p.hasAliasBanks = false → b = .plain) := by
  unfold resolve
  cases banks : p.hasAliasBanks with
  | true =>
    simp only [addressPlace, banks, if_true] at mem
    refine ⟨_, by rw [if_pos rfl, find_regOffset distinct mem]; rfl, ?_⟩
    rintro (rfl | none)
    · rfl
    · cases none
  | false =>
    simp only [addressPlace, banks, Bool.false_eq_true, if_false] at mem
    exact ⟨.plain, by rw [if_neg (by decide), find_regOffset distinct mem]; rfl, fun _ => rfl⟩

/-- A write at a register's address, through the plain bank or where there is no other, is the register's own write. -/
theorem writeAddress_eq_exec_writeRow {s : State} (distinct : s.params.regOffset.Pairwise fun a b => a.2 ≠ b.2)
    {bank : BitVec 2} {offset : BitVec 12} {r : RegName} (mem : (r, addressPlace s.params bank offset) ∈ s.params.regOffset)
    (plain : bank = 0 ∨ s.params.hasAliasBanks = false) (v : Word) :
    writeAddress s.nest bank offset v s = exec (writeRow s.params r v) s := by
  obtain ⟨b, found, isPlain⟩ := resolve_of_mem distinct mem
  obtain rfl := isPlain plain
  rw [writeAddress, found, exec_writeRow]
  rfl

/-- A read at a register's address returns the register, through every bank (44_register_ops R265). -/
theorem readAddress_of_mem {s : State} (distinct : s.params.regOffset.Pairwise fun a b => a.2 ≠ b.2)
    {bank : BitVec 2} {offset : BitVec 12} {r : RegName} (mem : (r, addressPlace s.params bank offset) ∈ s.params.regOffset)
    (present : s.hasReg r = true) : readAddress bank offset s = .next (s.answer (.word (s.readReg r))) := by
  obtain ⟨b, found, -⟩ := resolve_of_mem distinct mem
  rw [readAddress, found]
  exact if_pos present

/-- A mapped register belongs to a channel that exists (00_scope R6). -/
theorem State.hasReg_of_mem {s : State} (owned : ∀ e ∈ s.params.regOffset, ∀ i ∈ e.1.channel?, i < s.numChannels)
    {r : RegName} {n : Nat} (mem : (r, n) ∈ s.params.regOffset) : s.hasReg r = true := by
  have here := owned _ mem
  unfold State.hasReg
  cases own : r.channel? with
  | none => rfl
  | some i => exact decide_eq_true (here i own)

/-- The row that reads a register answers its word; that of `REQSEL` answers its two fields and no word. -/
theorem exec_readRow {s : State} {r : RegName} (present : s.hasReg r = true) (notReqsel : ∀ i, r ≠ .reqsel i) :
    exec (readRow r) s = .next (s.answer (.word (s.readReg r))) := by
  cases r with
  | reqsel i => exact absurd rfl (notReqsel i)
  | enable | disable | status | done | intflag | inten | force | linkload | reqdisable => rfl
  | config i | loop i | ctrl i | srcaddr i | dstaddr i | link i => exact withChannel_of_lt _ (of_decide_eq_true present)

/-! ### The `REQSEL` word -/

/-- Two fields that do not overlap come back from their word (30_encoding R114; log 5). -/
theorem extractLsb'_shiftLeft_or {a b : Nat} (x : BitVec a) (y : BitVec b) (lo other : Nat) (fits : lo + a ≤ 32)
    (apart : lo + a ≤ other ∨ other + b ≤ lo) :
    (x.setWidth 32 <<< lo ||| y.setWidth 32 <<< other : Word).extractLsb' lo a = x := by
  apply BitVec.eq_of_getLsbD_eq
  intro j hj
  have inside : lo + j < 32 := by omega
  have own : (x.setWidth 32 <<< lo : Word).getLsbD (lo + j) = x.getLsbD j := by
    simp [inside]
  have others : (y.setWidth 32 <<< other : Word).getLsbD (lo + j) = false := by
    rcases apart with below | above
    · have early : lo + j < other := by omega
      simp [early]
    · have late : b ≤ lo + j - other := by omega
      simp [BitVec.getLsbD_of_ge y _ late]
  rw [BitVec.getLsbD_extractLsb', BitVec.getLsbD_or, own, others, Bool.or_false]
  simp [hj]

/-- The fields of a `REQSEL` word lie where the parameters place them (log 5). -/
theorem reqselWord_fields {p : Params} (source : BitVec 6) (signal : BitVec 4) (fitsSource : p.reqselSourceLo + 6 ≤ 32)
    (fitsSignal : p.reqselSignalLo + 4 ≤ 32)
    (apart : p.reqselSourceLo + 6 ≤ p.reqselSignalLo ∨ p.reqselSignalLo + 4 ≤ p.reqselSourceLo) :
    (reqselWord p source signal).extractLsb' p.reqselSourceLo 6 = source ∧
    (reqselWord p source signal).extractLsb' p.reqselSignalLo 4 = signal :=
  ⟨extractLsb'_shiftLeft_or source signal _ _ fitsSource apart,
    by rw [reqselWord, BitVec.or_comm]; exact extractLsb'_shiftLeft_or signal source _ _ fitsSignal apart.symm⟩

/-- Settles O35: the offset finds the register, and each access there is that of the register's own row. -/
theorem mappedOffsetIsItsRegister : Obligations.MappedOffsetIsItsRegister := by
  intro s bank offset r v wf
  obtain ⟨-, -, -, -, distinct, owned, fitsSource, fitsSignal, apart⟩ := wf
  refine ⟨fun banks mem => ?_, fun noBanks mem => ?_, fun mem => ?_⟩
  · exact writeAddress_eq_exec_writeRow distinct (bank := 0) (by rwa [addressPlace, if_pos banks]) (.inl rfl) v
  · have here : (r, addressPlace s.params bank offset) ∈ s.params.regOffset := by
      rwa [addressPlace, if_neg (by rw [noBanks]; decide)]
    have own := writeAddress_eq_exec_writeRow distinct here (.inr noBanks) v
    refine ⟨?_, ?_, ?_, ?_⟩ <;> (rintro rfl; exact own)
  · have here := s.hasReg_of_mem owned mem
    have word : exec (.rdAny bank offset) s = .next (s.answer (.word (s.readReg r))) := readAddress_of_mem distinct mem here
    cases r with
    | reqsel i => exact ⟨_, word, reqselWord_fields _ _ fitsSource fitsSignal apart⟩
    | _ => exact word.trans (exec_readRow here nofun).symm

end Sys2Proof.Machine
end

section
/-! PROOFS. The codec in the other direction: bytes come back from what they decode to, but for the reserved positions. -/

namespace Sys2Proof.Machine

/-! ### Bytes of a word -/

/-- Four bytes are the bytes of their word, least significant first (20_memory R61). -/
theorem bytesOfWord_wordOfBytes (b0 b1 b2 b3 : Byte) : bytesOfWord (wordOfBytes b0 b1 b2 b3) = [b0, b1, b2, b3] := by
  simp (disch := decide) only [bytesOfWord, wordOfBytes, BitVec.extractLsb'_append_eq_of_le,
    BitVec.extractLsb'_append_eq_of_add_le, Nat.reduceSub]
  simp

/-- The number of a word, in arithmetic (20_memory R61). -/
theorem wordOfBytes_toNat (b0 b1 b2 b3 : Byte) :
    (wordOfBytes b0 b1 b2 b3).toNat = b0.toNat + 256 * b1.toNat + 65536 * b2.toNat + 16777216 * b3.toNat := by
  simp only [wordOfBytes, toNat_append_arith]
  omega

theorem bytesOfWord_injective {v w : Word} (same : bytesOfWord v = bytesOfWord w) : v = w := by
  have words := congrArg (wordAt · 0) same
  rwa [← List.append_nil (bytesOfWord v), ← List.append_nil (bytesOfWord w), wordAt_bytesOfWord_zero,
    wordAt_bytesOfWord_zero] at words

/-- A byte array of at least four bytes begins with the bytes of its first word. -/
theorem eq_bytesOfWord_append {b : List Byte} (long : 4 ≤ b.length) : ∃ w, b = bytesOfWord w ++ b.drop 4 := by
  match b, long with
  | b0 :: b1 :: b2 :: b3 :: rest, _ => exact ⟨wordOfBytes b0 b1 b2 b3, by rw [bytesOfWord_wordOfBytes]; rfl⟩

/-- A byte array of at least 16 bytes is four words and what follows them. -/
theorem eq_fourWords_append {b : List Byte} (long : 16 ≤ b.length) : ∃ w0 w1 w2 w3,
    b = bytesOfWord w0 ++ (bytesOfWord w1 ++ (bytesOfWord w2 ++ (bytesOfWord w3 ++ b.drop 16))) := by
  obtain ⟨w0, at0⟩ := eq_bytesOfWord_append (b := b) (by omega)
  obtain ⟨w1, at4⟩ := eq_bytesOfWord_append (b := b.drop 4) (by rw [List.length_drop]; omega)
  obtain ⟨w2, at8⟩ := eq_bytesOfWord_append (b := b.drop 8) (by rw [List.length_drop]; omega)
  obtain ⟨w3, at12⟩ := eq_bytesOfWord_append (b := b.drop 12) (by rw [List.length_drop]; omega)
  rw [List.drop_drop] at at4 at8 at12
  exact ⟨w0, w1, w2, w3, by rw [← at12, ← at8, ← at4, ← at0]⟩

/-! ### The words of a decoded descriptor -/

theorem ofBool_getLsbD {n : Nat} (w : BitVec n) (j : Nat) : BitVec.ofBool (w.getLsbD j) = w.extractLsb' j 1 := by
  apply BitVec.eq_of_getLsbD_eq
  intro k hk
  obtain rfl : k = 0 := by omega
  simp

/-- The fields of a control word are all of its bits but bit 2, which comes back as 0 (30_encoding R92, R96). -/
theorem controlWord_withControlWord (w : Word) (d : TransferDescriptor) :
    controlWord (withControlWord w d) = w.extractLsb' 3 29 ++ 0#1 ++ w.extractLsb' 0 2 := by
  simp only [controlWord, withControlWord, addrCode_addrTag, incCode_incTag, sizeCode_sizeTag, modeCode_modeTag,
    blockCode_blockTag, kindCode_kindTag, ofBool_getLsbD]
  simp (disch := decide) only [BitVec.extractLsb'_append_extractLsb'_eq_extractLsb']

theorem controlWord_withControlWord_eq_self_iff (w : Word) (d : TransferDescriptor) :
    controlWord (withControlWord w d) = w ↔ w.getLsbD 2 = false := by
  rw [controlWord_withControlWord]
  constructor
  · intro same
    rw [← same, BitVec.getLsbD_append, BitVec.getLsbD_append]
    rfl
  · intro clear
    have bit : (0#1 : BitVec 1) = w.extractLsb' 2 1 := by rw [← ofBool_getLsbD, clear]; rfl
    rw [bit]
    simp (disch := decide) only [BitVec.extractLsb'_append_extractLsb'_eq_extractLsb', BitVec.extractLsb'_eq_self]

/-- Every bit of a link word is a field's (30_encoding R95). -/
theorem linkWord_withLinkWord (w : Word) (d : TransferDescriptor) : linkWord (withLinkWord w d) = w := by
  simp only [linkWord, withLinkWord, addrCode_addrTag, ofBool_getLsbD]
  simp (disch := decide) only [BitVec.extractLsb'_append_extractLsb'_eq_extractLsb', BitVec.extractLsb'_eq_self]

/-- Encoding what four words stand for gives the words back, bit 2 of the first cleared, and a tail of zeros. -/
theorem encodeDescriptor_descOfWords (w0 w1 w2 w3 : Word) :
    encodeDescriptor (descOfWords w0 w1 w2 w3) =
      bytesOfWord (controlWord (withControlWord w0 .zero)) ++
        (bytesOfWord w1 ++ (bytesOfWord w2 ++ (bytesOfWord w3 ++ List.replicate 16 0))) := by
  rw [encodeDescriptor, descOfWords, linkWord_withLinkWord]
  simp only [List.append_assoc]
  rfl

/-- Words and a tail come back exactly when they are what the encoder writes at the reserved positions. -/
theorem encodeDescriptor_decodeDescriptor_eq_self_iff {b rest : List Byte} {w0 w1 w2 w3 : Word}
    (words : b = bytesOfWord w0 ++ (bytesOfWord w1 ++ (bytesOfWord w2 ++ (bytesOfWord w3 ++ rest)))) :
    encodeDescriptor (decodeDescriptor b) = b ↔ w0.getLsbD 2 = false ∧ rest = List.replicate 16 0 := by
  rw [words, decodeDescriptor_words, encodeDescriptor_descOfWords, ← controlWord_withControlWord_eq_self_iff w0 .zero]
  constructor
  · intro same
    obtain ⟨front, behind⟩ := List.append_inj same rfl
    exact ⟨bytesOfWord_injective front, by simpa only [List.append_cancel_left_eq, eq_comm] using behind⟩
  · rintro ⟨control, rfl⟩
    rw [control]

/-! ### The codec of a descriptor -/

/-- Settles O4: the encoder writes every field where the decoder reads it, and the fields are all the bits of the words 0 to 3
but bit 2 of word 0. -/
theorem descriptorCodecIsReversible : Obligations.DescriptorCodecIsReversible := by
  refine ⟨fun d => ⟨encodeDescriptor_length d, decodeDescriptor_encodeDescriptor d⟩, fun b size => ?_⟩
  obtain ⟨w0, w1, w2, w3, words⟩ := eq_fourWords_append (b := b) (by omega)
  have first : wordAt b 0 = w0 := by rw [words, wordAt_bytesOfWord_zero]
  rw [first]
  exact encodeDescriptor_decodeDescriptor_eq_self_iff words

/-- Settles O6: neither procedure can stop on its operand; `decode` reads the words of the array, and `encode` answers bytes
that read back. -/
theorem codecProceduresComplete : Obligations.CodecProceduresComplete := by
  refine ⟨fun s b size => ⟨wordAt b 0, wordAt b 1, wordAt b 2, wordAt b 3, if_pos size, fun j w mem => ?_⟩, fun s d =>
    ⟨encodeDescriptor d, rfl, encodeDescriptor_length d, decodeDescriptor_encodeDescriptor d, rfl⟩⟩
  have place : ∃ k, j = 4 * k ∧ w = wordAt b k := by
    simp only [List.mem_cons, Prod.mk.injEq, List.not_mem_nil, or_false] at mem
    rcases mem with ⟨rfl, rfl⟩ | ⟨rfl, rfl⟩ | ⟨rfl, rfl⟩ | ⟨rfl, rfl⟩
    exacts [⟨0, rfl, rfl⟩, ⟨1, rfl, rfl⟩, ⟨2, rfl, rfl⟩, ⟨3, rfl, rfl⟩]
  obtain ⟨k, rfl, rfl⟩ := place
  exact wordOfBytes_toNat ..

end Sys2Proof.Machine
end

section
/-! PROOFS. The pull scheduler: the class of a bound pair (41_pull_scheduler R151) and the tick of an armed timer (R154). -/

namespace Sys2Proof.Machine

/-! ### The class of a bound pair -/

/-- The first entry for a pair gives its class. -/
theorem pullClass_of_first {p : Params} {source : BitVec 6} {signal : BitVec 4} {before after : List PullEntry} {e : PullEntry}
    (table : p.shouldPullTable = before ++ e :: after) (earlier : ∀ x ∈ before, ¬ (x.source = source ∧ x.signal = signal))
    (here : e.source = source ∧ e.signal = signal) : pullClass p source signal = some e.pulls := by
  have found : p.shouldPullTable.find? (fun x => x.source = source ∧ x.signal = signal) = some e :=
    List.find?_eq_some_iff_append.mpr ⟨decide_eq_true here, before, after, table, fun x mem => by simp [decide_eq_false (earlier x mem)]⟩
  rw [pullClass, found]
  rfl

/-- A pair without an entry is `Unknown`. -/
theorem pullClass_of_absent {p : Params} {source : BitVec 6} {signal : BitVec 4}
    (absent : ∀ x ∈ p.shouldPullTable, ¬ (x.source = source ∧ x.signal = signal)) : pullClass p source signal = none := by
  have missing : p.shouldPullTable.find? (fun x => x.source = source ∧ x.signal = signal) = none :=
    List.find?_eq_none.mpr fun x mem => by simpa using absent x mem
  rw [pullClass, missing]
  rfl

theorem State.pulls_of_boundClass {s : State} {i : Nat} {b : Bool} (known : s.boundClass i = some b) : s.pulls i = b := by
  rw [State.pulls, known]
  rfl

theorem State.pulls_of_unknown {s : State} {i : Nat} (unknown : s.boundClass i = none) : s.pulls i = false := by
  rw [State.pulls, unknown]
  rfl

theorem State.reportPull_of_boundClass {s : State} {i : Nat} {b : Bool} (known : s.boundClass i = some b) :
    s.reportPull i = s := by
  rw [State.reportPull, known]

theorem State.reportPull_of_unknown {s : State} {i : Nat} (unknown : s.boundClass i = none) :
    s.reportPull i = s.diag (.unknownPullPair i (s.chan i).sourceSelector (s.chan i).signalSelector) := by
  rw [State.reportPull, unknown]

/-- `shouldPull` answers the class of a pair that has one, without a report. -/
theorem exec_shouldPull_of_boundClass {s : State} {i : Nat} (present : i < s.numChannels) {b : Bool}
    (known : s.boundClass i = some b) : exec (.shouldPull i) s = .next (s.answer (.flag b)) := by
  rw [exec, execShouldPull, withChannel_of_lt _ present, State.reportPull_of_boundClass known, State.pulls_of_boundClass known]

/-- `shouldPull` reports an unknown pair and answers that it does not pull. -/
theorem exec_shouldPull_of_unknown {s : State} {i : Nat} (present : i < s.numChannels) (unknown : s.boundClass i = none) :
    exec (.shouldPull i) s =
      .next ((s.diag (.unknownPullPair i (s.chan i).sourceSelector (s.chan i).signalSelector)).answer (.flag false)) := by
  rw [exec, execShouldPull, withChannel_of_lt _ present, State.reportPull_of_unknown unknown, State.pulls_of_unknown unknown]

/-- Settles O44: the table decides the class, and the class decides the answer and the report. -/
theorem shouldPullLooksUpTheTable : Obligations.ShouldPullLooksUpTheTable := by
  intro s i present
  refine ⟨fun before after e table earlier source signal => ?_, fun absent => ?_,
    fun _ => exec_shouldPull_of_boundClass present, exec_shouldPull_of_unknown present⟩
  · have known : s.boundClass i = some e.pulls := pullClass_of_first table earlier ⟨source, signal⟩
    exact ⟨known, State.pulls_of_boundClass known, exec_shouldPull_of_boundClass present known⟩
  · have unknown : s.boundClass i = none := pullClass_of_absent absent
    exact ⟨unknown, State.pulls_of_unknown unknown, exec_shouldPull_of_unknown present unknown⟩

/-! ### The tick of an armed timer -/

/-- An update of a channel that exists changes that channel only. -/
theorem State.updateChan_channelBecomes (s : State) {i : Nat} (f : Channel → Channel) (present : i < s.numChannels) :
    ChannelBecomes s (s.updateChan i f) i (f (s.chan i)) :=
  ⟨⟨rfl, s.numChannels_updateChan i f⟩, s.chan_updateChan_self i f present, fun k other => s.chan_updateChan_other i k f other⟩

/-- The disarm test disarms the timer if the signal is off or the descriptor is done, and otherwise changes nothing. -/
theorem State.disarmTest_disarms (s : State) {i : Nat} (present : i < s.numChannels) :
    if s.signalOn i = false ∨ (s.chan i).done = true
    then ChannelBecomes s (s.disarmTest i) i { s.chan i with pullArmed := false } else s.disarmTest i = s := by
  have test : (!s.signalOn i || (s.chan i).done) = true ↔ s.signalOn i = false ∨ (s.chan i).done = true := by simp
  split
  next stop =>
    rw [State.disarmTest, if_pos (test.mpr stop)]
    exact s.updateChan_channelBecomes _ present
  next stay => exact if_neg (stay ∘ test.mp)

/-- The tick of a channel that is not eligible is its disarm test alone. -/
theorem pullTick_of_not_eligible {nest : Nest} {s : State} {i : Nat}
    (off : (s.chan i).requestDisable = true ∨ s.signalOn i = false) : pullTick nest i s = .next (s.disarmTest i) := by
  have closed : (!(s.chan i).requestDisable && s.signalOn i) = false := by
    rcases off with disabled | off
    · simp [disabled]
    · simp [off]
  simp [pullTick, closed]

/-- The tick of an eligible channel is its activation and then the disarm test on the state left (decision D16). -/
theorem pullTick_of_eligible {nest : Nest} {s : State} {i : Nat} (enabled : (s.chan i).requestDisable = false)
    (on : s.signalOn i = true) :
    pullTick nest i s = andThen (executeActivation nest i s) fun u => .next (u.disarmTest i) := by
  simp [pullTick, enabled, on]

theorem exec_tick_of_armed {s : State} {i : Nat} (present : i < s.numChannels) (armed : (s.chan i).pullArmed = true) :
    exec (.tick i) s = pullTick s.nest i s :=
  (withChannel_of_lt _ present).trans (if_pos armed)

/-- Settles O46: the eligibility test chooses what runs before the disarm test; an activation keeps the channels there are, so
the test finds its channel. -/
theorem tickActivatesThenDisarms : Obligations.TickActivatesThenDisarms := by
  intro s i present armed
  rw [exec_tick_of_armed present armed]
  refine ⟨fun off => ⟨_, pullTick_of_not_eligible off, s.disarmTest_disarms present⟩, fun enabled on u run => ?_⟩
  have activated : executeActivation s.nest i s = .next u := (withChannel_eq_next.mp run).2
  have still : i < u.numChannels := (exec_kept _ s u run).numChannels ▸ present
  exact ⟨_, by rw [pullTick_of_eligible enabled on, activated, andThen_next], u.disarmTest_disarms still⟩

end Sys2Proof.Machine
end

section
/-! PROOFS. The forms an operation stops on by name (log 15, log 16). -/

namespace Sys2Proof.Machine

/-! ### A channel that does not exist -/

theorem withChannel_of_le {s : State} {i : Nat} (o : Out) (absent : s.numChannels ≤ i) :
    withChannel s i o = .refused .noSuchChannel :=
  if_neg (Nat.not_lt.mpr absent)

/-- The channel an operation names, if it names one. -/
def channelNamed : Instr → Option Nat
  | .tick i | .wrReqsel i _ _ | .rdReqsel i | .wrConfig i _ | .rdConfig i | .wrLoop i _ | .rdLoop i | .wrCtrl i _ | .rdCtrl i
  | .wrSrcaddr i _ | .rdSrcaddr i | .wrDstaddr i _ | .rdDstaddr i | .wrLink i _ | .rdLink i | .shouldPull i | .attemptStart i
  | .executeActivation i | .minorTransfer i | .setDone i | .chainLoad i | .linkLoadOp i | .matchesId i _ | .signalIsOn i =>
    some i
  | _ => none

/-- An operation that names a channel begins with the check that the channel exists. -/
theorem exec_eq_withChannel {op : Instr} {i : Nat} (named : channelNamed op = some i) (s : State) :
    ∃ o, exec op s = withChannel s i o := by
  cases op <;> cases named
  all_goals exact ⟨_, rfl⟩

theorem exec_of_absent_channel {op : Instr} {s : State} {i : Nat} (named : channelNamed op = some i)
    (absent : s.numChannels ≤ i) : exec op s = .refused .noSuchChannel := by
  obtain ⟨o, guarded⟩ := exec_eq_withChannel named s
  rw [guarded, withChannel_of_le o absent]

/-! ### An address of no register -/

/-- An address that `REG_OFFSET` has no register for selects none (30_encoding R112). -/
theorem resolve_eq_none {p : Params} {bank : BitVec 2} {offset : BitVec 12}
    (unmapped : ∀ e ∈ p.regOffset, e.2 ≠ addressPlace p bank offset) : resolve p bank offset = none := by
  have missing : p.regOffset.find? (fun e => e.2 = addressPlace p bank offset) = none :=
    List.find?_eq_none.mpr fun e mem => by simpa using unmapped e mem
  cases banks : p.hasAliasBanks with
  | true =>
    simp only [addressPlace, banks, if_true] at missing
    rw [resolve, if_pos banks, missing]
    rfl
  | false =>
    simp only [addressPlace, banks, Bool.false_eq_true, if_false] at missing
    rw [resolve, if_neg (by simp [banks]), missing]
    rfl

theorem readAddress_of_unmapped {s : State} {bank : BitVec 2} {offset : BitVec 12}
    (unmapped : resolve s.params bank offset = none) : readAddress bank offset s = .refused .unmappedOffset := by
  rw [readAddress, unmapped]

theorem writeAddress_of_unmapped {nest : Nest} {s : State} {bank : BitVec 2} {offset : BitVec 12} (v : Word)
    (unmapped : resolve s.params bank offset = none) : writeAddress nest bank offset v s = .refused .unmappedOffset := by
  rw [writeAddress, unmapped]

/-- Settles O60: each form fails the one test its operation begins with: of the timer, of the address, of the channel. -/
theorem formsThatStopByName : Obligations.FormsThatStopByName := by
  intro s i
  refine ⟨fun present unarmed => ?_, fun bank offset v banks unmapped => ?_, fun absent v source signal k op mem => ?_⟩
  · exact (withChannel_of_lt _ present).trans (if_neg (by simp [unarmed]))
  · have nowhere (b : BitVec 2) : resolve s.params b offset = none :=
      resolve_eq_none (by rwa [addressPlace, if_pos banks])
    exact ⟨readAddress_of_unmapped (nowhere bank), writeAddress_of_unmapped v (nowhere 0),
      writeAddress_of_unmapped v (nowhere 1), writeAddress_of_unmapped v (nowhere 2), writeAddress_of_unmapped v (nowhere 3)⟩
  · refine exec_of_absent_channel ?_ absent
    revert op
    simp [channelNamed]

end Sys2Proof.Machine
end

section
/-! PROOFS. The engine's operations that make no copy of their own: completion (42_channel_engine R186), chain-load (R190),
link-load (R191), start attempt (R171), and an activation that is dropped (R175 step 1). -/

namespace Sys2Proof.Machine

/-! ### An operation of a channel that exists -/

section
variable {s : State} {i : Nat} (present : i < s.numChannels)
include present

theorem exec_setDone : exec (.setDone i) s = .next (s.complete i) := withChannel_of_lt _ present
theorem exec_chainLoad : exec (.chainLoad i) s = .next (s.chainLoad i) := withChannel_of_lt _ present
theorem exec_linkLoadOp : exec (.linkLoadOp i) s = linkLoadOp s.nest i s := withChannel_of_lt _ present
theorem exec_attemptStart : exec (.attemptStart i) s = attemptStart s.nest i s := withChannel_of_lt _ present
theorem exec_minorTransfer : exec (.minorTransfer i) s = minorTransfer s.nest i s := withChannel_of_lt _ present
theorem exec_executeActivation : exec (.executeActivation i) s = executeActivation s.nest i s := withChannel_of_lt _ present

end

/-! ### Completion -/

/-- A completion sets `done`, and latches the interrupt where the descriptor was not done and its gate is set. -/
theorem latchDone_eq (c : Channel) : latchDone c =
    { c with done := true, doneInterrupt := c.doneInterrupt || (!c.done && c.desc.doneInterruptEnable) } := by
  cases done : c.done with
  | true => rw [latchDone, if_pos done]; cases c; simp_all
  | false => simp [latchDone, done]

/-- Settles O47: `setDone` is an update of the one channel, which does nothing once `done` is set. -/
theorem setDoneLatchesOncePerCompletion : Obligations.SetDoneLatchesOncePerCompletion := by
  intro s i present
  have latched : latchDone (s.chan i) = if (s.chan i).done then s.chan i
      else { s.chan i with
             done := true
             doneInterrupt := if (s.chan i).desc.doneInterruptEnable then true else (s.chan i).doneInterrupt } := by
    rw [latchDone]
    cases (s.chan i).desc.doneInterruptEnable <;> simp
  exact ⟨_, exec_setDone present, latched ▸ s.updateChan_channelBecomes latchDone present⟩

/-! ### Chain-load -/

/-- The address a chain-load reads, in arithmetic (30_encoding R106). -/
theorem linkTarget_eq (c : Channel) : linkTarget c =
    (c.desc.linkAddress.setWidth 32 <<< 2) + if c.desc.linkMode = .relative then c.descLoadAddr else 0 := by
  have offset : c.desc.linkAddress ++ 0#2 = c.desc.linkAddress.setWidth 32 <<< 2 := by
    have fits := c.desc.linkAddress.isLt
    apply BitVec.eq_of_toNat_eq
    simp only [toNat_append_arith, BitVec.toNat_shiftLeft, BitVec.toNat_setWidth, Nat.shiftLeft_eq, BitVec.toNat_ofNat]
    omega
  unfold linkTarget
  cases c.desc.linkMode with
  | absolute => simp [offset]
  | relative => simp [offset]

/-- The bytes a block read delivers, in order (20_memory R64). -/
theorem State.readBytes_eq_map (s : State) (a : Word) (n : Nat) :
    s.readBytes a n = (List.range n).map fun j => s.readByte (a + BitVec.ofNat 32 j) := by
  refine List.ext_getElem (by simp) fun j inRead inRange => ?_
  have below : j < n := by simpa using inRead
  have byte := s.readBytes_getD a n j below
  rw [List.getD_eq_getElem _ _ inRead] at byte
  simp [byte]

theorem State.chan_chainLoad_self {s : State} {i : Nat} (present : i < s.numChannels) : (s.chainLoad i).chan i =
    { s.chan i with desc := decodeDescriptor (s.readBytes (linkTarget (s.chan i)) 32), descLoadAddr := linkTarget (s.chan i) } :=
  (s.busCall _).chan_updateChan_self i _ present

theorem State.chan_chainLoad_other (s : State) {i k : Nat} (other : k ≠ i) : (s.chainLoad i).chan k = s.chan k :=
  (s.busCall _).chan_updateChan_other i k _ other

@[simp] theorem State.numChannels_chainLoad (s : State) (i : Nat) : (s.chainLoad i).numChannels = s.numChannels :=
  (s.busCall _).numChannels_updateChan i _

/-- Settles O48: a chain-load records its call and updates the one channel. -/
theorem chainLoadFetchesAndDecodes : Obligations.ChainLoadFetchesAndDecodes := by
  intro s i present
  refine ⟨s.chainLoad i, linkTarget (s.chan i), linkTarget_eq _, exec_chainLoad present, rfl, s.numChannels_chainLoad i, ?_,
    fun k => s.chan_chainLoad_other⟩
  rw [State.chan_chainLoad_self present, State.readBytes_eq_map]

/-! ### Link-load -/

theorem State.startsAfterLoad_eq_true {s : State} {i : Nat} : s.startsAfterLoad i = true ↔
    (s.chan i).requestDisable = false ∧ ((s.chan i).desc.autoRequest = true ∨ s.signalOn i = true) := by
  simp [State.startsAfterLoad]

/-- Settles O49: what the chain-load left decides whether a start attempt follows. -/
theorem linkLoadLoadsThenMayStart : Obligations.LinkLoadLoadsThenMayStart := by
  intro s i present
  refine ⟨s.chainLoad i, exec_chainLoad present, fun stays => ?_, fun enabled starts => ?_⟩
  · have ends : ¬ (s.chainLoad i).startsAfterLoad i = true := by
      rw [State.startsAfterLoad_eq_true]
      rcases stays with disabled | ⟨noAuto, off⟩
      · simp [disabled]
      · simp [noAuto, off]
    exact (exec_linkLoadOp present).trans (if_neg ends)
  · rw [exec_attemptStart ((s.numChannels_chainLoad i).symm ▸ present)]
    exact (exec_linkLoadOp present).trans (if_pos (State.startsAfterLoad_eq_true.mpr ⟨enabled, starts⟩))

/-! ### Start attempt and dropped activation -/

theorem attemptStart_of_pulls {nest : Nest} {s : State} {i : Nat} (pulls : s.pulls i = true) :
    attemptStart nest i s = .next (s.armPull i true) := if_pos pulls

theorem attemptStart_of_not_pulls {nest : Nest} {s : State} {i : Nat} (pulls : s.pulls i = false) :
    attemptStart nest i s = executeActivation nest i (s.reportPull i) := if_neg (by simp [pulls])

/-- Settles O45: the class of the bound pair decides. -/
theorem attemptStartArmsOrActivates : Obligations.AttemptStartArmsOrActivates := by
  intro s i present
  refine ⟨fun pull => ?_, fun edge => ?_, fun unknown => ?_⟩
  · exact ⟨_, (exec_attemptStart present).trans (attemptStart_of_pulls (State.pulls_of_boundClass pull)),
      s.updateChan_channelBecomes _ present⟩
  · rw [exec_attemptStart present, attemptStart_of_not_pulls (State.pulls_of_boundClass edge),
      State.reportPull_of_boundClass edge, exec_executeActivation present]
  · rw [exec_attemptStart present, attemptStart_of_not_pulls (State.pulls_of_unknown unknown),
      State.reportPull_of_unknown unknown]
    exact (exec_executeActivation (s := s.diag _) present).symm

/-- Settles O54: step 1 of an activation. -/
theorem droppedActivationChangesNothing : Obligations.DroppedActivationChangesNothing := by
  intro s i present dropped
  rw [exec_executeActivation present]
  exact executeActivation_dropped s.nest i s (by simpa using dropped)

end Sys2Proof.Machine
end

section
/-! PROOFS. A minor transfer (42_channel_engine R180 to R184): the plan of its copy, a copy whose nested operations all come at one
point, the update of the channel after it, and the bytes it moves. -/

namespace Sys2Proof.Machine

/-! ### The plan -/

/-- A configuration that a minor transfer only reports (42_channel_engine R181, R182). -/
abbrev TransferUnsupported (d : TransferDescriptor) : Prop :=
  d.structureKind ≠ .transfer ∨ d.unitSize = .reservedSize ∨
    d.requestMode = .block ∧ (d.blockSize = .reservedBlock6 ∨ d.blockSize = .reservedBlock8)

/-- The plan of `n` units of `w` bytes with the increments of `d`. -/
def planOf (d : TransferDescriptor) (n w : Nat) : TransferPlan where
  units := n
  width := w
  srcStep := addressStep d.sourceIncrement w
  dstStep := addressStep d.destinationIncrement w

theorem transferPlan_of_supported {d : TransferDescriptor} {n w : Nat} (i : Nat) (kind : d.structureKind = .transfer)
    (width : unitBytes d.unitSize = some w) (units : transferUnits d = some n) : transferPlan i d = .ok (planOf d n w) := by
  simp only [transferPlan, kind, width, units, if_true, planOf]

theorem transferPlan_of_kind {d : TransferDescriptor} (i : Nat) (kind : d.structureKind ≠ .transfer) :
    transferPlan i d = .error (.unsupportedKind i d.structureKind) := if_neg kind

theorem transferPlan_of_unitSize {d : TransferDescriptor} (i : Nat) (kind : d.structureKind = .transfer)
    (size : d.unitSize = .reservedSize) : transferPlan i d = .error (.unsupportedUnitSize i) := by
  simp only [transferPlan, kind, size, if_true, unitBytes]

/-- The reserved unit size is the only one without bytes. -/
theorem unitBytes_of_ne_reserved {u : UnitSize} (size : u ≠ .reservedSize) : ∃ w, unitBytes u = some w := by
  cases u with
  | reservedSize => exact absurd rfl size
  | _ => exact ⟨_, rfl⟩

theorem transferUnits_of_reserved {d : TransferDescriptor} (mode : d.requestMode = .block)
    (code : d.blockSize = .reservedBlock6 ∨ d.blockSize = .reservedBlock8) : transferUnits d = none := by
  rw [transferUnits_block mode]
  rcases code with code | code <;> rw [code] <;> rfl

theorem transferPlan_of_blockSize {d : TransferDescriptor} (i : Nat) (kind : d.structureKind = .transfer)
    (size : d.unitSize ≠ .reservedSize) (mode : d.requestMode = .block)
    (code : d.blockSize = .reservedBlock6 ∨ d.blockSize = .reservedBlock8) :
    transferPlan i d = .error (.unsupportedBlockSize i d.blockSize) := by
  obtain ⟨w, width⟩ := unitBytes_of_ne_reserved size
  simp only [transferPlan, kind, width, transferUnits_of_reserved mode code, if_true]

/-- The tests come in an order, but any one that fails makes the configuration unsupported. -/
theorem transferPlan_of_unsupported {d : TransferDescriptor} (i : Nat) (h : TransferUnsupported d) :
    ∃ g, transferPlan i d = .error g := by
  by_cases kind : d.structureKind = .transfer
  · by_cases size : d.unitSize = .reservedSize
    · exact ⟨_, transferPlan_of_unitSize i kind size⟩
    · obtain ⟨mode, code⟩ := (h.resolve_left (not_not_intro kind)).resolve_left size
      exact ⟨_, transferPlan_of_blockSize i kind size mode code⟩
  · exact ⟨_, transferPlan_of_kind i kind⟩

theorem minorTransfer_of_error {nest : Nest} {i : Nat} {s : State} {g : Diagnostic}
    (plan : transferPlan i (s.chan i).desc = .error g) : minorTransfer nest i s = .next (s.diag g) := by
  simp only [minorTransfer, plan]

/-- Settles O51: each unsupported configuration has no plan, and so no copy. -/
theorem unsupportedTransferOnlyReports : Obligations.UnsupportedTransferOnlyReports := by
  intro s i g present unsupported
  rw [exec_minorTransfer present]
  refine minorTransfer_of_error ?_
  rcases unsupported with ⟨kind, rfl⟩ | ⟨kind, size, rfl⟩ | ⟨kind, size, mode, code, rfl⟩
  · exact transferPlan_of_kind i kind
  · exact transferPlan_of_unitSize i kind size
  · exact transferPlan_of_blockSize i kind size mode code

/-! ### Moving units -/

@[simp] theorem advance_zero (base : Word) (step : Nat) : advance base step 0 = base := by simp [advance]

/-- Addresses advance unit by unit. -/
theorem advance_advance (base : Word) (step m k : Nat) : advance (advance base step m) step k = advance base step (m + k) := by
  simp only [advance, BitVec.add_assoc, ← BitVec.ofNat_add, Nat.mul_add]

/-- A move of units changes memory only. -/
theorem State.moveUnits_eq (s : State) (src dst : Word) (n : Nat) (p : TransferPlan) (m : Nat) :
    s.moveUnits src dst n p m = { s with mem := (s.moveUnits src dst n p m).mem } :=
  State.moveUnits_rel (R := fun s t => t = { s with mem := t.mem }) (fun _ => rfl) (fun _ _ _ first rest => by rw [rest, first])
    (fun s a b w => State.ext_fields _ _ (s.moveUnit_params a b w) (s.moveUnit_ch a b w) (s.moveUnit_asserted a b w) rfl
      (s.moveUnit_diagLog a b w) (s.moveUnit_busLog a b w) (s.moveUnit_result a b w) (s.moveUnit_copyEnv a b w)
      (s.moveUnit_pending a b w)) s src dst n p m

@[simp] theorem State.moveUnits_ch (s : State) (src dst : Word) (n : Nat) (p : TransferPlan) (m : Nat) :
    (s.moveUnits src dst n p m).ch = s.ch := by rw [State.moveUnits_eq]

theorem State.wf_moveUnits (s : State) (src dst : Word) (n : Nat) (p : TransferPlan) (m : Nat) (h : s.mem.wf) :
    (s.moveUnits src dst n p m).mem.wf :=
  State.moveUnits_rel (R := fun s t => s.mem.wf → t.mem.wf) (fun _ => id) (fun _ _ _ first rest => rest ∘ first)
    (fun s a b w => s.wf_moveUnit a b w) s src dst n p m h

/-- The last `m` of `n` units are a move of `m` units from where the others end. -/
theorem State.moveUnits_last (s : State) (src dst : Word) {n m : Nat} (p : TransferPlan) (hm : m ≤ n) :
    s.moveUnits src dst n p m =
      s.moveUnits (advance src p.srcStep (n - m)) (advance dst p.dstStep (n - m)) m p m := by
  suffices shifted : ∀ j, j ≤ m → ∀ u : State, u.moveUnits src dst n p j =
      u.moveUnits (advance src p.srcStep (n - m)) (advance dst p.dstStep (n - m)) m p j from shifted m le_rfl s
  intro j
  induction j with
  | zero => intros; rfl
  | succ j ih =>
    intro hj u
    have place : n - m + (m - (j + 1)) = n - (j + 1) := by omega
    simp only [State.moveUnits, advance_advance, place, ih (by omega)]

/-- The bytes of the last `m` of `n` units (20_memory R67). -/
theorem State.readByte_moveUnits_last (s : State) (src dst : Word) {n m : Nat} (p : TransferPlan) (hm : m ≤ n)
    (hw : p.width ≤ 2 ^ 32) (wf : s.mem.wf) : (s.moveUnits src dst n p m).readByte =
      unitsMoved s.readByte (advance src p.srcStep (n - m)) (advance dst p.dstStep (n - m)) p.srcStep p.dstStep p.width m := by
  rw [s.moveUnits_last src dst p hm]
  exact s.readByte_moveUnits _ _ m p m wf hw le_rfl _ (by rw [Nat.sub_self, unitsMoved_zero])

/-! ### A copy whose nested operations all come at one point -/

section
variable (nest : Nest) {events : List CopyEvent} (src dst : Word) {n : Nat} (p : TransferPlan)

/-- Up to the point nothing runs. -/
theorem copyUnits_before (a b : Nat) (s : State)
    (none : ∀ j, n - (a + b) ≤ j → j < n - b → eventsDue events n j = []) (hn : a + b ≤ n) :
    copyUnits nest events src dst n p (a + b) s =
      copyUnits nest events src dst n p b (s.moveUnits src dst (n - b) p a) := by
  induction a generalizing s with
  | zero => rw [Nat.zero_add]; rfl
  | succ a ih =>
    have place : n - b - (a + 1) = n - (a + b + 1) := by omega
    rw [Nat.add_right_comm, copyUnits, none _ (by omega) (by omega), runEvents_nil, andThen_next, State.moveUnits, place]
    exact ih _ (fun j _ => none j (by omega)) (by omega)

/-- After the point nothing runs. -/
theorem copyUnits_after (b : Nat) (s : State) (none : ∀ j, n - b ≤ j → eventsDue events n j = []) :
    copyUnits nest events src dst n p b s = .next (s.moveUnits src dst n p b) := by
  induction b generalizing s with
  | zero => rw [copyUnits, none n (by omega)]; rfl
  | succ b ih =>
    rw [copyUnits, none _ le_rfl, runEvents_nil, andThen_next, ih _ fun j _ => none j (by omega)]
    rfl

/-- At the point the operations due run, and the other units are moved on the state they leave. -/
theorem copyUnits_at (b : Nat) (s : State) (none : ∀ j, n - b < j → eventsDue events n j = []) (hb : b ≤ n) :
    copyUnits nest events src dst n p b s =
      andThen (runEvents nest (eventsDue events n (n - b)) s) fun v => .next (v.moveUnits src dst n p b) := by
  cases b with
  | zero =>
    show runEvents nest (eventsDue events n n) s = _
    rw [Nat.sub_zero]
    cases runEvents nest (eventsDue events n n) s <;> rfl
  | succ b =>
    refine andThen_congr rfl fun v _ => ?_
    exact copyUnits_after nest src dst p b _ fun j _ => none j (by omega)

end

/-- Operations set for after `k` units of a copy of `n` are due after `min k n` of them, and at no other point (log 8). -/
theorem eventsDue_map (ops : List EnvOp) (k n j : Nat) :
    eventsDue (ops.map fun op => ⟨k, op⟩) n j = if j = min k n then ops.map fun op => ⟨k, op⟩ else [] := by
  split
  next h => exact List.filter_eq_self.mpr (by simp [h])
  next h => exact List.filter_eq_nil_iff.mpr (by simp [Ne.symm h])

/-- A copy whose nested operations all come after `m = min k n` of its `n` units: the units before, the operations, the others. -/
theorem copyUnits_with_events (nest : Nest) (ops : List EnvOp) (k : Nat) (src dst : Word) (n : Nat) (p : TransferPlan)
    (s : State) : copyUnits nest (ops.map fun op => ⟨k, op⟩) src dst n p n s =
      andThen (runEvents nest (ops.map fun op => ⟨k, op⟩) (s.moveUnits src dst (min k n) p (min k n))) fun v =>
        .next (v.moveUnits src dst n p (n - min k n)) := by
  have bound : min k n ≤ n := min_le_right k n
  have other (j : Nat) (h : j ≠ min k n) : eventsDue (ops.map fun op => ⟨k, op⟩) n j = [] := by
    rw [eventsDue_map, if_neg h]
  have here : n - (n - min k n) = min k n := by omega
  calc copyUnits nest (ops.map fun op => ⟨k, op⟩) src dst n p n s
    _ = copyUnits nest (ops.map fun op => ⟨k, op⟩) src dst n p (min k n + (n - min k n)) s := by
        rw [Nat.add_sub_cancel' bound]
    _ = copyUnits nest (ops.map fun op => ⟨k, op⟩) src dst n p (n - min k n) (s.moveUnits src dst (min k n) p (min k n)) := by
        rw [copyUnits_before nest src dst p _ _ s (fun j _ _ => other j (by omega)) (by omega), here]
    _ = _ := by
        rw [copyUnits_at nest src dst p _ _ (fun j _ => other j (by omega)) (by omega), here, eventsDue_map, if_pos rfl]

/-- Operations nested in a copy run as their rows do, each on the state as it is: the script entries left to them suffice. -/
theorem runEvents_eq_envActs (ops : List EnvOp) (k depth : Nat) (s : State) (left : s.copyEnv.length ≤ depth) :
    runEvents (nested (depth + 1)) (ops.map fun op => ⟨k, op⟩) s = envActs ops s := by
  induction ops generalizing s with
  | nil => rfl
  | cons op rest ih =>
    have row : nested (depth + 1) op s = envAct op s := by
      have bound := (Composed.applyEnvOp op s).more_nest (depth - s.copyEnv.length)
      rw [Nat.add_sub_cancel' left] at bound
      exact bound.trans (applyEnvOp_eq_envAct op s)
    have shrinks := State.ScriptTaken.copyLifts.nested (depth + 1) op s
    rw [List.map_cons, runEvents, envActs]
    rw [row] at shrinks ⊢
    cases answer : envAct op s with
    | next t => exact ih t ((shrinks t answer).length_le.trans left)
    | fault | refused => rfl

end Sys2Proof.Machine
end

section
/-! PROOFS. What a minor transfer of a supported descriptor leaves: one recorded copy, its bytes, and the channel updated from the
descriptor before the copy (42_channel_engine R180, R183, R184, R186; decision D25). -/

namespace Sys2Proof.Machine

/-- A sequence whose first part stops answers what that part answers. -/
theorem andThen_of_stops {o : Out} {f : State → Out} (stops : ∀ t, o ≠ .next t) : andThen o f = o := by
  cases o with
  | next t => exact absurd rfl (stops t)
  | fault | refused => rfl

/-! ### The channel -/

section
variable {d : TransferDescriptor} {n : Nat} (w : Nat) (c : Channel)

/-- The channel after `All` mode's one transfer (42_channel_engine R184). -/
theorem transferred_all (mode : d.requestMode = .all) : transferred d n w c =
    { c with done := true, doneInterrupt := c.doneInterrupt || (!c.done && c.desc.doneInterruptEnable) } := by
  rw [transferred, mode]

/-- The channel after the last block (42_channel_engine R183). -/
theorem transferred_last (mode : d.requestMode = .block) (last : remaining d = n) : transferred d n w c =
    { c with
      done := true, doneInterrupt := c.doneInterrupt || (!c.done && c.desc.doneInterruptEnable)
      desc := { c.desc with
        transferCount := 0
        sourceAddress := advance d.sourceAddress (addressStep d.sourceIncrement w) n
        destinationAddress := advance d.destinationAddress (addressStep d.destinationIncrement w) n } } := by
  simp only [transferred, mode, last, if_true, advance]

/-- The channel after a block that leaves more (42_channel_engine R183). -/
theorem transferred_more (mode : d.requestMode = .block) (more : n < remaining d) : transferred d n w c =
    { c with
      desc := { c.desc with
        transferCount := BitVec.ofNat 11 (remaining d - n - 1)
        sourceAddress := advance d.sourceAddress (addressStep d.sourceIncrement w) n
        destinationAddress := advance d.destinationAddress (addressStep d.destinationIncrement w) n } } := by
  simp only [transferred, mode, more.ne', if_false, advance]

/-- What follows the copy is one update of the channel. -/
theorem afterCopy_eq_transferred (i : Nat) (hn : n ≤ remaining d) (s : State) :
    afterCopy i d (planOf d n w) s = s.updateChan i (transferred d n w) := by
  unfold afterCopy
  cases mode : d.requestMode with
  | all => exact congrArg (s.updateChan i) (funext fun c => (latchDone_eq c).trans (transferred_all w c mode).symm)
  | block =>
    simp only [planOf, State.complete, State.updateDesc]
    rcases hn.lt_or_eq with more | rfl
    · have left : remaining d - n ≠ 0 := by omega
      simp only [left, if_false]
      exact congrArg (s.updateChan i) (funext fun c => (transferred_more w c mode more).symm)
    · simp only [Nat.sub_self, if_true, State.updateChan_updateChan, latchDone_eq]
      exact congrArg (s.updateChan i) (funext fun c => (transferred_last w c mode rfl).symm)

end

/-! ### The copy -/

/-- The `Copy` call of a minor transfer of descriptor `d`, of `n` units of `w` bytes. -/
abbrev copyOf (d : TransferDescriptor) (n w : Nat) : BusCall :=
  copyCall d.sourceAddress d.destinationAddress (planOf d n w)

/-- `s` inside the copy of a minor transfer of channel `i`, of `n` units of `w` bytes, the first `m` of them moved. -/
def State.insideCopy (s : State) (i n w m : Nat) : State :=
  let d := (s.chan i).desc
  (s.beginCopy (copyOf d n w)).moveUnits d.sourceAddress d.destinationAddress m (planOf d n w) m

/-- Inside its copy a minor transfer has recorded the call, taken the script's entry, and moved units. -/
theorem State.insideCopy_eq (s : State) (i n w m : Nat) : s.insideCopy i n w m =
    { s with
      mem := (s.insideCopy i n w m).mem
      busLog := s.busLog ++ [copyOf (s.chan i).desc n w]
      copyEnv := s.copyEnv.tail } :=
  State.moveUnits_eq ..

@[simp] theorem State.insideCopy_ch (s : State) (i n w m : Nat) : (s.insideCopy i n w m).ch = s.ch := by
  rw [State.insideCopy_eq]

@[simp] theorem State.insideCopy_copyEnv (s : State) (i n w m : Nat) : (s.insideCopy i n w m).copyEnv = s.copyEnv.tail := by
  rw [State.insideCopy_eq]

theorem State.wf_insideCopy {s : State} (wf : s.mem.wf) (i n w m : Nat) : (s.insideCopy i n w m).mem.wf :=
  (s.beginCopy _).wf_moveUnits _ _ m _ m wf

/-- A unit is at most four bytes, far fewer than the bus has addresses. -/
theorem unitBytes_le_bus {u : UnitSize} {w : Nat} (width : unitBytes u = some w) : w ≤ 2 ^ 32 :=
  (unitBytes_le width).trans (by norm_num)

theorem State.supports.width_le {s : State} {i n w : Nat} (supported : s.supports i n w) : w ≤ 2 ^ 32 := by
  obtain ⟨-, width, -⟩ := supported
  exact unitBytes_le_bus width

theorem State.supports.units_bounds {s : State} {i n w : Nat} (supported : s.supports i n w) :
    1 ≤ n ∧ n ≤ remaining (s.chan i).desc := by
  obtain ⟨-, -, units⟩ := supported
  exact transferUnits_bounds units

theorem State.readByte_insideCopy {s : State} (wf : s.mem.wf) {i n w : Nat} (m : Nat) (hw : w ≤ 2 ^ 32) :
    (s.insideCopy i n w m).readByte =
      unitsMoved s.readByte (s.chan i).desc.sourceAddress (s.chan i).desc.destinationAddress
        (addressStep (s.chan i).desc.sourceIncrement w) (addressStep (s.chan i).desc.destinationIncrement w) w m :=
  (s.beginCopy _).readByte_moveUnits _ _ m (planOf _ n w) m wf hw le_rfl s.readByte (by rw [Nat.sub_self]; rfl)

/-! ### The transfer -/

/-- A minor transfer of a supported descriptor is its copy and the update of its channel. -/
theorem minorTransfer_of_supports {nest : Nest} {s : State} {i n w : Nat} (supported : s.supports i n w) :
    minorTransfer nest i s =
      andThen (copy nest (s.chan i).desc.sourceAddress (s.chan i).desc.destinationAddress (planOf (s.chan i).desc n w) s)
        fun t => .next (t.updateChan i (transferred (s.chan i).desc n w)) := by
  obtain ⟨kind, width, units⟩ := supported
  simp only [minorTransfer, transferPlan_of_supported i kind width units,
    afterCopy_eq_transferred w i (transferUnits_bounds units).2]

/-- What a minor transfer with no nested operation leaves. -/
def State.transferOnce (s : State) (i n w : Nat) : State :=
  (s.insideCopy i n w n).updateChan i (transferred (s.chan i).desc n w)

theorem minorTransfer_quiet {nest : Nest} {s : State} {i n w : Nat} (quiet : s.quiet) (supported : s.supports i n w) :
    minorTransfer nest i s = .next (s.transferOnce i n w) := by
  rw [minorTransfer_of_supports supported, copy_quiet _ _ _ _ _ quiet, andThen_next]
  rfl

section
variable (s : State) (i n w : Nat)

/-- It records one call, and otherwise changes channels and memory only. -/
theorem State.transferOnce_eq (quiet : s.quiet) : s.transferOnce i n w =
    { s with
      ch := (s.transferOnce i n w).ch
      mem := (s.transferOnce i n w).mem
      busLog := s.busLog ++ [copyOf (s.chan i).desc n w] } := by
  rw [State.transferOnce, State.insideCopy_eq, quiet]
  rfl

theorem State.insideCopy_chan (m k : Nat) : (s.insideCopy i n w m).chan k = s.chan k :=
  State.chan_of_ch _ _ (s.insideCopy_ch i n w m) k

@[simp] theorem State.insideCopy_numChannels (m : Nat) : (s.insideCopy i n w m).numChannels = s.numChannels :=
  State.numChannels_of_ch _ _ (s.insideCopy_ch i n w m)

@[simp] theorem State.transferOnce_numChannels : (s.transferOnce i n w).numChannels = s.numChannels := by
  simp [State.transferOnce]

theorem State.transferOnce_chan_self {i : Nat} (present : i < s.numChannels) :
    (s.transferOnce i n w).chan i = transferred (s.chan i).desc n w (s.chan i) := by
  rw [State.transferOnce, State.chan_updateChan_self _ i _ (by simpa using present), State.insideCopy_chan]

theorem State.transferOnce_chan_other {k : Nat} (other : k ≠ i) : (s.transferOnce i n w).chan k = s.chan k := by
  rw [State.transferOnce, State.chan_updateChan_other _ i k _ other, State.insideCopy_chan]

/-- Memory keeps every byte where the recorded call does not store: a step stores by its recorded copies only. -/
theorem State.transferOnce_readByte_other {i : Nat} (present : i < s.numChannels) (quiet : s.quiet)
    (supported : s.supports i n w) {a : Word} (outside : ¬ storesTo (copyOf (s.chan i).desc n w) a) :
    (s.transferOnce i n w).readByte a = s.readByte a := by
  obtain ⟨-, calls, grown, frame⟩ := onlyCopiesStoreToMemory _ s _
    ((exec_minorTransfer present).trans (minorTransfer_quiet quiet supported))
  rw [s.transferOnce_eq i n w quiet, List.append_cancel_left_eq] at grown
  exact frame a (by simpa [← grown] using outside)

end

/-- What a minor transfer that had moved `m` of its `n` units leaves, going on from `v`: the other units are moved and the channel
is updated from `d`, the descriptor before the copy. -/
def State.resumeCopy (v : State) (i : Nat) (d : TransferDescriptor) (n w m : Nat) : State :=
  (v.moveUnits d.sourceAddress d.destinationAddress n (planOf d n w) (n - m)).updateChan i (transferred d n w)

section
variable (v : State) (i : Nat) (d : TransferDescriptor) (n w m : Nat)

theorem State.resumeCopy_eq : v.resumeCopy i d n w m =
    { v with ch := (v.resumeCopy i d n w m).ch, mem := (v.resumeCopy i d n w m).mem } := by
  rw [State.resumeCopy, State.moveUnits_eq]
  rfl

@[simp] theorem State.resumeCopy_numChannels : (v.resumeCopy i d n w m).numChannels = v.numChannels := by
  simp [State.resumeCopy, State.numChannels]

theorem State.resumeCopy_chan_self {i : Nat} (present : i < v.numChannels) :
    (v.resumeCopy i d n w m).chan i = transferred d n w (v.chan i) := by
  have moved := v.moveUnits_ch d.sourceAddress d.destinationAddress n (planOf d n w) (n - m)
  rw [State.resumeCopy, State.chan_updateChan_self _ i _ (State.numChannels_of_ch _ _ moved ▸ present),
    State.chan_of_ch _ _ moved]

theorem State.resumeCopy_chan_other {k : Nat} (other : k ≠ i) : (v.resumeCopy i d n w m).chan k = v.chan k := by
  rw [State.resumeCopy, State.chan_updateChan_other _ i k _ other, State.chan_of_ch _ _ (v.moveUnits_ch ..)]

theorem State.resumeCopy_readByte {m : Nat} (wf : v.mem.wf) (hw : w ≤ 2 ^ 32) (hm : m ≤ n) :
    (v.resumeCopy i d n w m).readByte = unitsMoved v.readByte (advance d.sourceAddress (addressStep d.sourceIncrement w) m)
      (advance d.destinationAddress (addressStep d.destinationIncrement w) m) (addressStep d.sourceIncrement w)
      (addressStep d.destinationIncrement w) w (n - m) := by
  have bytes := v.readByte_moveUnits_last d.sourceAddress d.destinationAddress (planOf d n w) (Nat.sub_le n m) hw wf
  rw [Nat.sub_sub_self hm] at bytes
  exact bytes

end

/-- With operations nested at one point of its copy: the units before, the operations, the other units, the channel. -/
theorem minorTransfer_with_events {s : State} {i n w k : Nat} {ops : List EnvOp} {script : List (List CopyEvent)}
    (supported : s.supports i n w) (entry : s.copyEnv = (ops.map fun op => ⟨k, op⟩) :: script) :
    minorTransfer s.nest i s = andThen (envActs ops (s.insideCopy i n w (min k n))) fun v =>
      .next (v.resumeCopy i (s.chan i).desc n w (min k n)) := by
  have depth : s.nest = nested (script.length + 1) := by rw [State.nest, entry, List.length_cons]
  have left : (s.insideCopy i n w (min k n)).copyEnv.length ≤ script.length := by simp [entry]
  rw [minorTransfer_of_supports supported, copy, entry, List.headD_cons]
  show andThen (copyUnits s.nest _ _ _ n _ n _) _ = _
  rw [copyUnits_with_events, andThen_assoc, depth]
  exact congrArg (andThen · _) (runEvents_eq_envActs ops k script.length _ left)

/-- Operations nested in a copy keep what every operation keeps. -/
theorem envActs_kept {ops : List EnvOp} {s t : State} (acts : envActs ops s = .next t) : s.Kept t := by
  rw [← runEvents_eq_envActs ops 0 _ s le_rfl] at acts
  exact State.Kept.engineLifts.runEvents (State.Kept.lifts.nested _) _ s t acts

/-- Settles O52: with no nested operation, the channel by the cases of the mode and of what remains; with operations nested at one
point, the copy cut there. -/
theorem minorTransferCopiesAndUpdates : Obligations.MinorTransferCopiesAndUpdates := by
  refine ⟨fun s i n w present quiet kind width units => ?quiet,
    fun s i n w k ops script present supported entry wf => ?nested⟩
  case quiet =>
    have supported : s.supports i n w := ⟨kind, width, units⟩
    have self := s.transferOnce_chan_self n w present
    exact ⟨s.transferOnce i n w, (exec_minorTransfer present).trans (minorTransfer_quiet quiet supported),
      s.transferOnce_eq i n w quiet, s.transferOnce_numChannels i n w, fun k => s.transferOnce_chan_other i n w,
      fun a => s.transferOnce_readByte_other n w present quiet supported, fun mode => self.trans (transferred_all w _ mode),
      fun mode last => self.trans (transferred_last w _ mode last),
      fun mode more => self.trans (transferred_more w _ mode more)⟩
  case nested =>
    intro d m sInc dInc src dst call
    have hw : w ≤ 2 ^ 32 := supported.width_le
    have run := (exec_minorTransfer present).trans (minorTransfer_with_events supported entry)
    have inside := s.insideCopy_eq i n w m
    rw [entry, List.tail_cons] at inside
    refine ⟨s.insideCopy i n w m, inside, congrFun (State.readByte_insideCopy wf m hw), fun stops => ?_, fun v acts => ?_⟩
    · rw [run]
      exact andThen_of_stops stops
    · have kept := envActs_kept acts
      have channels : v.numChannels = s.numChannels := kept.numChannels.trans (s.insideCopy_numChannels i n w m)
      refine ⟨v.resumeCopy i d n w m, by rw [run, acts, andThen_next], v.resumeCopy_eq i d n w m,
        (v.resumeCopy_numChannels i d n w m).trans channels, fun a => ?_, fun j => v.resumeCopy_chan_other i d n w m,
        v.resumeCopy_chan_self d n w m (channels ▸ present)⟩
      exact congrFun (v.resumeCopy_readByte i d n w (kept.mem (State.wf_insideCopy wf i n w m)) hw (min_le_right k n)) a

end Sys2Proof.Machine
end

section
/-! PROOFS. The bytes of a copy (20_memory R67): what moving units leaves outside the destination, and in each destination unit. -/

namespace Sys2Proof.Machine

/-! ### One unit -/

/-- A unit's bytes arrive in order. -/
theorem unitMoved_inside (m : Word → Byte) (src dst : Word) {w b : Nat} (hw : w ≤ 2 ^ 32) (hb : b < w) :
    unitMoved m src dst w (dst + BitVec.ofNat 32 b) = m (src + BitVec.ofNat 32 b) := by
  have place : dst + BitVec.ofNat 32 b - dst = BitVec.ofNat 32 b := by rw [BitVec.add_comm, BitVec.add_sub_cancel]
  have small : (BitVec.ofNat 32 b).toNat = b := by
    rw [BitVec.toNat_ofNat, Nat.mod_eq_of_lt (hb.trans_le hw)]
  rw [unitMoved, place, small, if_pos hb]

theorem unitMoved_outside (m : Word → Byte) (src dst : Word) {w : Nat} {a : Word}
    (outside : ∀ b, b < w → a ≠ dst + BitVec.ofNat 32 b) : unitMoved m src dst w a = m a := by
  refine if_neg fun here => outside _ here ?_
  rw [BitVec.ofNat_toNat, BitVec.setWidth_eq, BitVec.add_comm, BitVec.sub_add_cancel]

/-! ### Units in ascending order -/

section
variable (m : Word → Byte) (src dst : Word) (sInc dInc : Nat) {w : Nat}

theorem unitsMoved_outside (n : Nat) {a : Word}
    (outside : ∀ k b, k < n → b < w → a ≠ dst + BitVec.ofNat 32 (dInc * k) + BitVec.ofNat 32 b) :
    unitsMoved m src dst sInc dInc w n a = m a := by
  induction n with
  | zero => rfl
  | succ n ih =>
    rw [unitsMoved, unitMoved_outside _ _ _ fun b hb => outside n b (Nat.lt_succ_self n) hb]
    exact ih fun k b hk => outside k b (hk.trans (Nat.lt_succ_self n))

/-- A byte of a destination unit that no later unit overwrites is what that unit read. -/
theorem unitsMoved_of_not_overwritten {n k b : Nat} (hw : w ≤ 2 ^ 32) (hk : k < n) (hb : b < w)
    (kept : ∀ j e, k < j → j < n → e < w → dst + BitVec.ofNat 32 (dInc * k) + BitVec.ofNat 32 b ≠
      dst + BitVec.ofNat 32 (dInc * j) + BitVec.ofNat 32 e) :
    unitsMoved m src dst sInc dInc w n (dst + BitVec.ofNat 32 (dInc * k) + BitVec.ofNat 32 b) =
      unitsMoved m src dst sInc dInc w k (src + BitVec.ofNat 32 (sInc * k) + BitVec.ofNat 32 b) := by
  induction n with
  | zero => exact absurd hk (Nat.not_lt_zero k)
  | succ n ih =>
    rcases Nat.lt_succ_iff_lt_or_eq.mp hk with earlier | rfl
    · rw [unitsMoved, unitMoved_outside _ _ _ fun e he => kept n e earlier (Nat.lt_succ_self n) he]
      exact ih earlier fun j e hj hn => kept j e hj (hn.trans (Nat.lt_succ_self n))
    · exact unitMoved_inside _ _ _ hw hb

/-- Moving `a` units and then `b` from where they end is moving `a + b`. -/
theorem unitsMoved_add (a b : Nat) : unitsMoved m src dst sInc dInc w (a + b) =
    unitsMoved (unitsMoved m src dst sInc dInc w a) (advance src sInc a) (advance dst dInc a) sInc dInc w b := by
  induction b with
  | zero => rfl
  | succ b ih =>
    have place (base : Word) (step : Nat) :
        base + BitVec.ofNat 32 (step * (a + b)) = advance base step a + BitVec.ofNat 32 (step * b) :=
      (advance_advance base step a b).symm
    rw [← Nat.add_assoc, unitsMoved, unitsMoved, ih, place, place]

end

/-! ### A buffer -/

/-- An increment other than `None` is at least the width of a unit, and at most four units. -/
theorem addressStep_bounds {inc : Increment} (moves : inc ≠ .none) (w : Nat) :
    w ≤ addressStep inc w ∧ addressStep inc w ≤ 4 * w := by
  cases inc with
  | none => exact absurd rfl moves
  | x1 | x2 | x4 => simp only [addressStep]; omega

/-- Units that advance by at least their width do not meet, as long as the bus is not used up. -/
theorem units_apart (base : Word) {step w n j k b e : Nat} (wide : w ≤ step) (fits : step * n ≤ 2 ^ 32) (hj : j < k)
    (hk : k < n) (hb : b < w) (he : e < w) :
    base + BitVec.ofNat 32 (step * j) + BitVec.ofNat 32 b ≠ base + BitVec.ofNat 32 (step * k) + BitVec.ofNat 32 e := by
  have low : step * j + b < step * k := by
    calc step * j + b < step * j + step := by omega
      _ = step * (j + 1) := rfl
      _ ≤ step * k := Nat.mul_le_mul_left _ hj
  have high : step * k + e < 2 ^ 32 := by
    calc step * k + e < step * k + step := by omega
      _ = step * (k + 1) := rfl
      _ ≤ step * n := Nat.mul_le_mul_left _ hk
      _ ≤ 2 ^ 32 := fits
  intro same
  rw [BitVec.add_assoc, BitVec.add_assoc, BitVec.add_right_inj, ← BitVec.ofNat_add, ← BitVec.ofNat_add] at same
  have equal := congrArg BitVec.toNat same
  rw [BitVec.toNat_ofNat, BitVec.toNat_ofNat, Nat.mod_eq_of_lt (by omega), Nat.mod_eq_of_lt high] at equal
  omega

/-- A minor transfer's bytes are those of its copy. -/
theorem State.transferOnce_readByte {s : State} {i n w : Nat} (wf : s.mem.wf) (hw : w ≤ 2 ^ 32) :
    (s.transferOnce i n w).readByte =
      unitsMoved s.readByte (s.chan i).desc.sourceAddress (s.chan i).desc.destinationAddress
        (addressStep (s.chan i).desc.sourceIncrement w) (addressStep (s.chan i).desc.destinationIncrement w) w n :=
  State.readByte_insideCopy wf n hw

/-- Settles O53: the bytes are the copy's; the source units are outside the destination, so each unit reads what was there, and
what it writes stays where the units advance, or where it is the last. -/
theorem minorTransferMovesABuffer : Obligations.MinorTransferMovesABuffer := by
  intro s i n w present quiet wf supported d sInc dInc src dst
  have hw : w ≤ 2 ^ 32 := supported.width_le
  have bytes := congrFun (State.transferOnce_readByte (i := i) (n := n) wf hw)
  refine ⟨_, (exec_minorTransfer present).trans (minorTransfer_quiet quiet supported), bytes, fun apart k b hk hb => ?_⟩
  have source {n' k : Nat} (hn : n' ≤ n) (hk : k < n) :
      unitsMoved s.readByte d.sourceAddress d.destinationAddress sInc dInc w n' (src k b) = s.readByte (src k b) :=
    unitsMoved_outside _ _ _ _ _ n' fun j e hj he => (apart j k e b (hj.trans_le hn) hk he hb).symm
  have written {k : Nat} (hk : k < n) (kept : ∀ j e, k < j → j < n → e < w → dst k b ≠ dst j e) :
      (s.transferOnce i n w).readByte (dst k b) = s.readByte (src k b) :=
    (bytes _).trans ((unitsMoved_of_not_overwritten _ _ _ _ _ hw hk hb kept).trans (source hk.le hk))
  refine ⟨(bytes _).trans (source le_rfl hk), fun moves => written hk ?advancing, fun fixed => ?last⟩
  case advancing =>
    obtain ⟨wide, narrow⟩ := addressStep_bounds moves w
    have fits : dInc * n ≤ 2 ^ 32 := by
      have few : n ≤ 2048 := supported.units_bounds.2.trans (remaining_le d)
      have step : dInc ≤ 16 := by have := unitBytes_le supported.2.1; omega
      calc dInc * n ≤ 16 * 2048 := Nat.mul_le_mul step few
        _ ≤ 2 ^ 32 := by norm_num
    exact fun j e later hj he => units_apart _ wide fits later hj hb he
  case last =>
    have still : dInc = 0 := by simp only [dInc, d, fixed, addressStep]
    have same : dst 0 b = dst (n - 1) b := by simp only [dst, still, Nat.zero_mul]
    rw [same]
    exact written (by omega) fun j e later hj => absurd hj (by omega)

end Sys2Proof.Machine
end

section
/-! PROOFS. Channels after the guard, a completion, a chain-load; what decides the signal; the guard stays set inside an activation
(10_state R31, 42_channel_engine R175). -/

namespace Sys2Proof.Machine

/-! ### Equal states -/

/-- Channel arrays of one length are equal when they read alike. -/
theorem State.ch_ext {s t : State} (long : s.numChannels = t.numChannels) (same : ∀ k, s.chan k = t.chan k) : s.ch = t.ch := by
  refine List.ext_getElem long fun k hs ht => ?_
  have here := same k
  rwa [State.chan, State.chan, List.getD_eq_getElem _ _ hs, List.getD_eq_getElem _ _ ht] at here

/-- `ChannelBecomes` leaves no choice. -/
theorem ChannelBecomes.unique {s t u : State} {i : Nat} {c : Channel} (h : ChannelBecomes s t i c) (k : ChannelBecomes s u i c) :
    t = u := by
  obtain ⟨⟨eqT, longT⟩, hereT, otherT⟩ := h
  obtain ⟨⟨eqU, longU⟩, hereU, otherU⟩ := k
  have same : t.ch = u.ch := State.ch_ext (longT.trans longU.symm) fun j => by
    by_cases hj : j = i
    · rw [hj, hereT, hereU]
    · rw [otherT j hj, otherU j hj]
  rw [eqT, eqU, same]

/-! ### The guard -/

section
variable {s : State} {i : Nat}

theorem State.guard_channelBecomes (present : i < s.numChannels) (b : Bool) :
    ChannelBecomes s (s.guard i b) i { s.chan i with inProgress := b } := s.updateChan_channelBecomes _ present

@[simp] theorem State.numChannels_guard (s : State) (i : Nat) (b : Bool) : (s.guard i b).numChannels = s.numChannels :=
  s.numChannels_updateChan i _

theorem State.chan_guard_self (present : i < s.numChannels) (b : Bool) :
    (s.guard i b).chan i = { s.chan i with inProgress := b } := s.chan_updateChan_self i _ present

theorem State.chan_guard_other (s : State) {i k : Nat} (other : k ≠ i) (b : Bool) : (s.guard i b).chan k = s.chan k :=
  s.chan_updateChan_other i k _ other

/-- A field the guard is not part of. -/
theorem State.guard_field {α : Type} (f : Channel → α) (frame : ∀ c b, f { c with inProgress := b } = f c) (s : State)
    (i k : Nat) (b : Bool) : f ((s.guard i b).chan k) = f (s.chan k) :=
  s.chan_updateChan_rel (P := fun c d => f d = f c) i k _ (fun _ => rfl) (frame _ b)

@[simp] theorem State.guard_desc (s : State) (i k : Nat) (b : Bool) : ((s.guard i b).chan k).desc = (s.chan k).desc :=
  s.guard_field Channel.desc (fun _ _ => rfl) i k b

@[simp] theorem State.guard_done (s : State) (i k : Nat) (b : Bool) : ((s.guard i b).chan k).done = (s.chan k).done :=
  s.guard_field Channel.done (fun _ _ => rfl) i k b

@[simp] theorem State.guard_guard (s : State) (i : Nat) (a b : Bool) : (s.guard i a).guard i b = s.guard i b :=
  s.updateChan_updateChan i _ _

/-- Setting the guard to what it is changes nothing. -/
theorem State.guard_eq_self (present : i < s.numChannels) {b : Bool} (is : (s.chan i).inProgress = b) : s.guard i b = s := by
  have unchanged : { s.chan i with inProgress := b } = s.chan i := by rw [← is]
  refine (s.guard_channelBecomes present b).unique ⟨⟨rfl, rfl⟩, ?_, fun _ _ => rfl⟩
  exact unchanged.symm

end

/-! ### The signal -/

/-- The signal depends on the set, on the channel's selectors and on whether it ignores single requests (43_crossbar R215). -/
theorem State.signalOn_congr {s t : State} {i k : Nat} (asserted : t.asserted = s.asserted)
    (source : (t.chan k).sourceSelector = (s.chan i).sourceSelector)
    (signal : (t.chan k).signalSelector = (s.chan i).signalSelector)
    (single : (t.chan k).desc.ignoreSingleRequests = (s.chan i).desc.ignoreSingleRequests) :
    t.signalOn k = s.signalOn i := by
  simp only [State.signalOn, asserted, source, signal, single]

@[simp] theorem State.signalOn_guard (s : State) (i k : Nat) (b : Bool) : (s.guard i b).signalOn k = s.signalOn k :=
  State.signalOn_congr rfl (s.guard_field Channel.sourceSelector (fun _ _ => rfl) i k b)
    (s.guard_field Channel.signalSelector (fun _ _ => rfl) i k b) (by rw [State.guard_desc])

/-! ### Step 3b of an activation -/

section
variable {s : State} {i : Nat}

theorem State.chainOn_channelBecomes (present : i < s.numChannels) :
    ChannelBecomes (s.chainLoad i) (s.chainOn i) i { (s.chainLoad i).chan i with done := false } :=
  (s.chainLoad i).updateChan_channelBecomes _ ((s.numChannels_chainLoad i).symm ▸ present)

@[simp] theorem State.numChannels_chainOn (s : State) (i : Nat) : (s.chainOn i).numChannels = s.numChannels :=
  ((s.chainLoad i).numChannels_updateChan i _).trans (s.numChannels_chainLoad i)

theorem State.chan_chainOn_self (present : i < s.numChannels) :
    (s.chainOn i).chan i = { (s.chainLoad i).chan i with done := false } :=
  (State.chainOn_channelBecomes present).2.1

theorem State.mustChain_eq_true : s.mustChain i = true ↔ (s.chan i).done = true ∧ (s.chan i).desc.link = true := by
  simp [State.mustChain]

/-- Updates of one channel that commute on the channel commute. -/
theorem State.updateChan_comm (s : State) (i : Nat) {f g : Channel → Channel} (commute : ∀ c, f (g c) = g (f c)) :
    (s.updateChan i g).updateChan i f = (s.updateChan i f).updateChan i g := by
  rw [State.updateChan_updateChan, State.updateChan_updateChan, funext commute]

/-- A fetch does not see the guard. -/
theorem State.chainLoad_guard (s : State) (i : Nat) (b : Bool) : (s.guard i b).chainLoad i = (s.chainLoad i).guard i b := by
  have target : linkTarget ((s.guard i b).chan i) = linkTarget (s.chan i) :=
    s.guard_field linkTarget (fun _ _ => rfl) i i b
  have bytes (a : Word) : (s.guard i b).readBytes a 32 = s.readBytes a 32 := State.readBytes_of_mem _ _ rfl a 32
  simp only [State.chainLoad, target, bytes]
  exact (s.busCall (.memRead (linkTarget (s.chan i)) 32)).updateChan_comm i fun _ => rfl

theorem State.chainOn_guard (s : State) (i : Nat) (b : Bool) : (s.guard i b).chainOn i = (s.chainOn i).guard i b := by
  rw [State.chainOn, State.chainLoad_guard]
  exact (s.chainLoad i).updateChan_comm i fun _ => rfl

end

/-! ### Inside an activation the guard stays set -/

/-- A channel whose guard is set in `s` has it set in `t`. -/
def State.GuardHeld (s t : State) : Prop := ∀ k, (s.chan k).inProgress = true → (t.chan k).inProgress = true

theorem State.GuardHeld.of_ch {s t : State} (ch : t.ch = s.ch) : s.GuardHeld t :=
  fun k held => by rwa [State.chan_of_ch t s ch k]

theorem State.GuardHeld.trans {s t u : State} (h : s.GuardHeld t) (k : t.GuardHeld u) : s.GuardHeld u := fun i => k i ∘ h i

theorem State.GuardHeld.updateChan (s : State) (i : Nat) (f : Channel → Channel)
    (frame : ∀ c, (f c).inProgress = c.inProgress) : s.GuardHeld (s.updateChan i f) :=
  fun k held => (s.chan_updateChan_rel (P := fun c d => d.inProgress = c.inProgress) i k f (fun _ => rfl) (frame _)).trans held

theorem State.GuardHeld.mapChan (s : State) (f : Nat → Channel → Channel)
    (frame : ∀ k c, (f k c).inProgress = c.inProgress) : s.GuardHeld (s.mapChan f) :=
  fun k held => (s.chan_mapChan_rel (P := fun c d => d.inProgress = c.inProgress) k f (fun _ => rfl) (frame k _)).trans held

theorem latchDone_inProgress (c : Channel) : (latchDone c).inProgress = c.inProgress := by rw [latchDone_eq]

/-- Only an activation of a channel whose guard is clear sets and clears it. -/
theorem State.GuardHeld.engineLifts : EngineLifts State.GuardHeld where
  refl _ := .of_ch rfl
  trans _ _ _ := .trans
  diag _ _ := .of_ch rfl
  beginCopy _ _ _ _ := .of_ch rfl
  moveUnit s a b w := .of_ch (s.moveUnit_ch a b w)
  afterCopy := afterCopy_rel (fun _ => .of_ch rfl) (fun _ _ _ => .trans) (fun s i => .updateChan s i _ latchDone_inProgress)
    fun s i _ => .updateChan s i _ fun _ => rfl
  chainLoad s i := .updateChan (s.busCall _) i _ fun _ => rfl
  clearDone s i := .updateChan s i _ fun _ => rfl
  guarded s t i clear inner k held := by
    have other : k ≠ i := by rintro rfl; simp [clear] at held
    rw [t.chan_guard_other other]
    exact inner k (by rwa [s.chan_guard_other other])
  armPull s i _ := .updateChan s i _ fun _ => rfl

theorem State.GuardHeld.lifts : Lifts State.GuardHeld where
  toEngineLifts := State.GuardHeld.engineLifts
  asserted _ _ := .of_ch rfl
  deasserted _ _ := .of_ch rfl
  enableStores s _ := .mapChan s _ fun _ c => by split <;> rfl
  writeDisable s _ := .mapChan s _ fun _ c => by split <;> rfl
  writeDone s _ := .mapChan s _ fun _ _ => rfl
  writeIntflag s _ := .mapChan s _ fun _ _ => rfl
  writeInten s _ := .mapChan s _ fun _ _ => rfl
  reqdisableStores s _ := .mapChan s _ fun _ _ => rfl
  writeReqsel s i _ _ := .updateChan s i _ fun _ => rfl
  writeConfig s i _ := .updateChan s i _ fun _ => rfl
  writeLoop s i _ := .updateChan s i _ fun _ => rfl
  ctrlStores s i _ := .updateChan s i _ fun _ => rfl
  writeSrcaddr s i _ := .updateChan s i _ fun _ => rfl
  writeDstaddr s i _ := .updateChan s i _ fun _ => rfl
  writeLink s i _ := .updateChan s i _ fun _ => rfl

end Sys2Proof.Machine
end

section
/-! PROOFS. The loop of an activation (42_channel_engine R175): one minor transfer, then the chain-load and the loop condition on
the state it leaves; what holds at the end (R178), and when there is no end (70_reset R322). -/

namespace Sys2Proof.Machine

/-! ### What follows a minor transfer -/

/-- Steps 3b and 4 of an activation on the state a minor transfer left (42_channel_engine R175): the chain-load, then the loop
again or the end. -/
def continueLoop (nest : Nest) (i fuel : Nat) (s : State) : Out :=
  if (s.chained i).goesOn i (s.mustChain i) then activationLoop nest i fuel (s.chained i) else .next (s.chained i)

theorem activationLoop_eq (nest : Nest) (i fuel : Nat) (s : State) :
    activationLoop nest i (fuel + 1) s = andThen (minorTransfer nest i s) (continueLoop nest i fuel) := rfl

section
variable {nest : Nest} {i : Nat} {s : State} (fuel : Nat)

/-- Without a chain-load the loop goes on while a request is pending and the descriptor is not done (42_channel_engine R177). -/
theorem continueLoop_of_stays (stays : (s.chan i).done = false ∨ (s.chan i).desc.link = false) : continueLoop nest i fuel s =
    if (s.chan i).done = false ∧ s.signalOn i = true then activationLoop nest i fuel s else .next s := by
  have unlinked : s.mustChain i = false := by
    rcases stays with h | h <;> simp [State.mustChain, h]
  simp [continueLoop, State.chained, unlinked, State.goesOn]

/-- After a chain-load it goes on if the loaded descriptor has `autoRequest` or a request is pending (42_channel_engine R177). -/
theorem continueLoop_of_links (present : i < s.numChannels) (done : (s.chan i).done = true) (link : (s.chan i).desc.link = true) :
    continueLoop nest i fuel s =
      if ((s.chainOn i).chan i).desc.autoRequest = true ∨ (s.chainOn i).signalOn i = true
      then activationLoop nest i fuel (s.chainOn i) else .next (s.chainOn i) := by
  have chains : s.mustChain i = true := State.mustChain_eq_true.mpr ⟨done, link⟩
  have cleared : ((s.chainOn i).chan i).done = false := by rw [State.chan_chainOn_self present]
  simp [continueLoop, State.chained, chains, State.goesOn, cleared]

end

/-- The fuel an activation has left after its first minor transfer (log 9). -/
def fuelAfterFirst : Nat := 18446744073709551615

/-- An activation that is not dropped is its loop, between setting and clearing the guard. -/
theorem executeActivation_of_idle {nest : Nest} {i : Nat} {s : State} (idle : (s.chan i).inProgress = false)
    (undone : (s.chan i).done = false) : executeActivation nest i s =
      andThen (activationLoop nest i Config.loopFuel (s.guard i true)) fun t => .next (t.guard i false) :=
  if_neg (by simp [idle, undone])

/-- The loop begins with a minor transfer. -/
theorem executeActivation_eq_first {nest : Nest} {i : Nat} {s : State} (idle : (s.chan i).inProgress = false)
    (undone : (s.chan i).done = false) : executeActivation nest i s =
      andThen (andThen (minorTransfer nest i (s.guard i true)) (continueLoop nest i fuelAfterFirst)) fun t =>
        .next (t.guard i false) := by
  rw [executeActivation_of_idle idle undone, loopFuel_eq, activationLoop_eq, fuelAfterFirst]

/-! ### The end of an activation -/

/-- The channel waits for nothing: its last descriptor completed and does not link, or no request is pending (42_channel_engine
R178). -/
def State.AtRest (s : State) (i : Nat) : Prop :=
  (s.chan i).done = true ∧ (s.chan i).desc.link = false ∨ (s.chan i).done = false ∧ s.signalOn i = false

/-- A loop that ends leaves its channel at rest. -/
theorem activationLoop_atRest {nest : Nest} (keeps : NestRel State.Kept nest) {i fuel : Nat} {s t : State}
    (present : i < s.numChannels) (run : activationLoop nest i fuel s = .next t) :
    t.AtRest i ∧ t.numChannels = s.numChannels := by
  induction fuel generalizing s with
  | zero => cases run
  | succ fuel ih =>
    obtain ⟨u, transfer, rest⟩ := andThen_eq_next.mp run
    have same : u.numChannels = s.numChannels := (State.Kept.engineLifts.minorTransfer keeps i s u transfer).numChannels
    have there : i < u.numChannels := same ▸ present
    by_cases links : (u.chan i).done = true ∧ (u.chan i).desc.link = true
    · rw [← continueLoop, continueLoop_of_links fuel there links.1 links.2] at rest
      split at rest
      · simpa [same] using ih (by simpa using there) rest
      next ends =>
        cases rest
        refine ⟨.inr ⟨by rw [State.chan_chainOn_self there], ?_⟩, by simpa using same⟩
        simpa using (not_or.mp ends).2
    · have stays : (u.chan i).done = false ∨ (u.chan i).desc.link = false := by
        simpa [or_iff_not_imp_left] using links
      rw [← continueLoop, continueLoop_of_stays fuel stays] at rest
      split at rest
      · simpa [same] using ih there rest
      next ends =>
        cases rest
        refine ⟨?_, same⟩
        cases done : (t.chan i).done with
        | true => exact .inl ⟨done, by simpa [done] using stays⟩
        | false => exact .inr ⟨done, by simpa [done] using ends⟩

/-- Settles O58: the loop ends at rest, and the guard is cleared last. -/
theorem activationEndsDoneOrUnrequested : Obligations.ActivationEndsDoneOrUnrequested := by
  intro s t i idle undone run
  obtain ⟨present, run⟩ := withChannel_eq_next.mp run
  rw [executeActivation_of_idle idle undone] at run
  obtain ⟨u, loop, ends⟩ := andThen_eq_next.mp run
  cases ends
  obtain ⟨rest, same⟩ := activationLoop_atRest (State.Kept.lifts.nested _) (by simpa using present) loop
  have there : i < u.numChannels := by simpa [same] using present
  refine ⟨by rw [State.chan_guard_self there], ?_⟩
  simpa [State.AtRest] using rest

/-! ### An activation without an end -/

/-- An unsupported configuration whose signal is on is only reported, over and over, until the fuel is used up. -/
theorem activationLoop_hangs {nest : Nest} {i : Nat} (fuel : Nat) {s : State} (unsupported : TransferUnsupported (s.chan i).desc)
    (undone : (s.chan i).done = false) (on : s.signalOn i = true) : activationLoop nest i fuel s = .fault .hang := by
  induction fuel generalizing s with
  | zero => rfl
  | succ fuel ih =>
    obtain ⟨g, plan⟩ := transferPlan_of_unsupported i unsupported
    rw [activationLoop_eq, minorTransfer_of_error plan, andThen_next,
      continueLoop_of_stays (s := s.diag g) fuel (.inl undone)]
    exact (if_pos ⟨undone, on⟩).trans (ih (s := s.diag g) unsupported undone on)

/-- Settles O59: with its configuration and its signal the loop never changes what it tests. -/
theorem unsupportedRequestedActivationHangs : Obligations.UnsupportedRequestedActivationHangs := by
  intro s i present idle undone on unsupported
  rw [exec_executeActivation present, executeActivation_of_idle idle undone,
    activationLoop_hangs _ (by simpa using unsupported) (by simpa using undone) (by simpa using on), andThen_fault]

end Sys2Proof.Machine
end

section
/-! PROOFS. One iteration of an activation (42_channel_engine R175, R176, R177): with no nested operation it is the minor transfer;
whatever is nested, the loop goes on as an activation of the state it is in (70_reset R320 (a), (e)). -/

namespace Sys2Proof.Machine

/-! ### A minor transfer does not see the guard -/

theorem State.writeBytes_updateChan (s : State) (i : Nat) (f : Channel → Channel) (a : Word) (b : List Byte) :
    (s.updateChan i f).writeBytes a b = (s.writeBytes a b).updateChan i f := by
  induction b generalizing s a with
  | nil => rfl
  | cons x rest ih => exact ih (s.writeByte a x) (a + 1)

theorem State.moveUnits_updateChan (s : State) (i : Nat) (f : Channel → Channel) (src dst : Word) (n : Nat) (p : TransferPlan)
    (m : Nat) : (s.updateChan i f).moveUnits src dst n p m = (s.moveUnits src dst n p m).updateChan i f := by
  induction m generalizing s with
  | zero => rfl
  | succ m ih =>
    have bytes (a : Word) : (s.updateChan i f).readBytes a p.width = s.readBytes a p.width :=
      State.readBytes_of_mem (s.updateChan i f) s rfl a p.width
    simp only [State.moveUnits, State.moveUnit, bytes, State.writeBytes_updateChan, ih]

/-- A field of a channel that a minor transfer keeps. -/
theorem transferred_field {α : Type} (f : Channel → α)
    (frame : ∀ c b l count src dst, f { c with
      done := b, doneInterrupt := l
      desc := { c.desc with transferCount := count, sourceAddress := src, destinationAddress := dst } } = f c)
    (d : TransferDescriptor) (n w : Nat) (c : Channel) : f (transferred d n w c) = f c := by
  unfold transferred
  cases d.requestMode with
  | all => exact frame c _ _ c.desc.transferCount c.desc.sourceAddress c.desc.destinationAddress
  | block =>
    simp only []
    split
    · exact frame c _ _ _ _ _
    · exact frame c c.done c.doneInterrupt _ _ _

theorem transferred_link (d : TransferDescriptor) (n w : Nat) (c : Channel) : (transferred d n w c).desc.link = c.desc.link :=
  transferred_field (·.desc.link) (fun _ _ _ _ _ _ => rfl) d n w c

theorem transferred_inProgress (d : TransferDescriptor) (n w : Nat) (c : Channel) :
    (transferred d n w c).inProgress = c.inProgress :=
  transferred_field (·.inProgress) (fun _ _ _ _ _ _ => rfl) d n w c

/-- The update of the channel and the guard commute. -/
theorem transferred_guard (d : TransferDescriptor) (n w : Nat) (c : Channel) (b : Bool) :
    transferred d n w { c with inProgress := b } = { transferred d n w c with inProgress := b } := by
  unfold transferred
  cases d.requestMode with
  | all => rfl
  | block => by_cases last : remaining d = n <;> simp only [last, if_true, if_false]

theorem State.transferOnce_guard (s : State) (i n w : Nat) (b : Bool) :
    (s.guard i b).transferOnce i n w = (s.transferOnce i n w).guard i b := by
  have inside : (s.guard i b).insideCopy i n w n = (s.insideCopy i n w n).guard i b := by
    rw [State.insideCopy, State.guard_desc]
    exact (s.beginCopy _).moveUnits_updateChan ..
  rw [State.transferOnce, State.guard_desc, inside]
  exact State.updateChan_comm _ i fun c => transferred_guard _ n w c b

theorem State.supports_guard (s : State) (i n w : Nat) (b : Bool) : (s.guard i b).supports i n w ↔ s.supports i n w := by
  simp only [State.supports, State.guard_desc]

/-! ### With no nested operation -/

section
variable {s : State} {i n : Nat} (w : Nat) (present : i < s.numChannels)
include present

theorem State.transferOnce_signalOn : (s.transferOnce i n w).signalOn i = s.signalOn i := by
  have self := s.transferOnce_chan_self n w present
  refine State.signalOn_congr (by rw [State.transferOnce, State.insideCopy_eq]; rfl) ?_ ?_ ?_
  · rw [self]; exact transferred_field (·.sourceSelector) (fun _ _ _ _ _ _ => rfl) ..
  · rw [self]; exact transferred_field (·.signalSelector) (fun _ _ _ _ _ _ => rfl) ..
  · rw [self]; exact transferred_field (·.desc.ignoreSingleRequests) (fun _ _ _ _ _ _ => rfl) ..

theorem State.transferOnce_link : ((s.transferOnce i n w).chan i).desc.link = (s.chan i).desc.link := by
  rw [s.transferOnce_chan_self n w present, transferred_link]

theorem State.transferOnce_inProgress : ((s.transferOnce i n w).chan i).inProgress = (s.chan i).inProgress := by
  rw [s.transferOnce_chan_self n w present, transferred_inProgress]

/-- A block that leaves more does not set `done`. -/
theorem State.transferOnce_done_of_more (mode : (s.chan i).desc.requestMode = .block) (more : n < remaining (s.chan i).desc) :
    ((s.transferOnce i n w).chan i).done = (s.chan i).done := by
  rw [s.transferOnce_chan_self n w present, transferred_more w _ mode more]

/-- `All` mode and the last block set `done`. -/
theorem State.transferOnce_done_of_ends (ends : (s.chan i).desc.requestMode = .all ∨ remaining (s.chan i).desc = n) :
    ((s.transferOnce i n w).chan i).done = true := by
  rw [s.transferOnce_chan_self n w present]
  cases mode : (s.chan i).desc.requestMode with
  | all => rw [transferred_all w _ mode]
  | block => rw [transferred_last w _ mode (ends.resolve_left (by simp [mode]))]

end

/-- An activation with no nested operation goes on, its guard set, from what its first minor transfer leaves. -/
theorem executeActivation_quiet {nest : Nest} {s : State} {i n w : Nat} (quiet : s.quiet)
    (idle : (s.chan i).inProgress = false) (undone : (s.chan i).done = false) (supported : s.supports i n w) :
    executeActivation nest i s =
      andThen (continueLoop nest i fuelAfterFirst ((s.transferOnce i n w).guard i true)) fun t => .next (t.guard i false) := by
  rw [executeActivation_eq_first idle undone,
    minorTransfer_quiet (s := s.guard i true) quiet ((s.supports_guard i n w true).mpr supported), State.transferOnce_guard,
    andThen_next]

/-- Where the descriptor does not link and no request is pending or it is done, the activation is its first minor transfer. -/
theorem executeActivation_eq_transfer {nest : Nest} {s : State} {i n w : Nat} (present : i < s.numChannels) (quiet : s.quiet)
    (idle : (s.chan i).inProgress = false) (undone : (s.chan i).done = false) (supported : s.supports i n w)
    (stays : ((s.transferOnce i n w).chan i).done = false ∨ ((s.transferOnce i n w).chan i).desc.link = false)
    (ends : ¬ (((s.transferOnce i n w).chan i).done = false ∧ (s.transferOnce i n w).signalOn i = true)) :
    executeActivation nest i s = .next (s.transferOnce i n w) := by
  rw [executeActivation_quiet quiet idle undone supported, continueLoop_of_stays _ (by simpa using stays),
    if_neg (by simpa using ends), andThen_next, State.guard_guard,
    State.guard_eq_self (by simpa using present) ((State.transferOnce_inProgress w present).trans idle)]

/-- Where it completes a descriptor that links, to a successor without `autoRequest` and without a request pending, the activation
is its first minor transfer and the chain-load. -/
theorem executeActivation_eq_chainOn {nest : Nest} {s t : State} {i n w : Nat} (present : i < s.numChannels) (quiet : s.quiet)
    (idle : (s.chan i).inProgress = false) (undone : (s.chan i).done = false) (supported : s.supports i n w)
    (first : t = s.transferOnce i n w) (done : (t.chan i).done = true) (link : (t.chan i).desc.link = true)
    (noAuto : ((t.chainOn i).chan i).desc.autoRequest = false) (off : (t.chainOn i).signalOn i = false) :
    executeActivation nest i s = .next (t.chainOn i) := by
  have there : i < t.numChannels := by simpa [first] using present
  have idle' : ((t.chainOn i).chan i).inProgress = false := by
    rw [State.chan_chainOn_self there, State.chan_chainLoad_self there, first]
    exact (State.transferOnce_inProgress w present).trans idle
  rw [executeActivation_quiet quiet idle undone supported, ← first,
    continueLoop_of_links _ (by simpa using there) (by simpa using done) (by simpa using link), State.chainOn_guard,
    if_neg (by simp [noAuto, off]), andThen_next, State.guard_guard, State.guard_eq_self (by simpa using there) idle']

/-! ### Whatever is nested -/

/-- The rest of a loop is an activation of the state it is in, its guard cleared: what nested operations may still do and the fuel
do not decide. -/
theorem exec_executeActivation_of_loop {s u r : State} {i fuel : Nat} (taken : s.ScriptTaken u) (present : i < u.numChannels)
    (active : (u.chan i).inProgress = true) (undone : (u.chan i).done = false) (enough : fuel ≤ Config.loopFuel)
    (run : andThen (activationLoop s.nest i fuel u) (fun t => .next (t.guard i false)) = .next r) :
    exec (.executeActivation i) (u.guard i false) = .next r := by
  obtain ⟨t, loop, ends⟩ := andThen_eq_next.mp run
  have same : activationLoop s.nest i fuel u = activationLoop u.nest i fuel u := by
    have more := (Composed.activationLoop i fuel u).more_nest (s.copyEnv.length - u.copyEnv.length)
    rwa [Nat.add_sub_cancel' taken.length_le] at more
  have fueled := activationLoop_more_fuel u.nest i fuel (Config.loopFuel - fuel) u t (same ▸ loop)
  rw [Nat.add_sub_cancel' enough] at fueled
  rw [exec_executeActivation (s := u.guard i false) (by simpa using present),
    executeActivation_of_idle (by rw [State.chan_guard_self present]) (by simpa using undone), State.guard_guard,
    State.guard_eq_self present active, show (u.guard i false).nest = u.nest from rfl, fueled]
  exact ends

theorem fuelAfterFirst_le : fuelAfterFirst ≤ Config.loopFuel := by
  rw [loopFuel_eq, fuelAfterFirst]
  exact Nat.le_succ _

/-- Settles O55: with no nested operation the first minor transfer commutes with the guard; in general the loop condition on the
state after it, and after the chain-load, decides between the end and another activation. -/
theorem activationOfOneTransfer : Obligations.ActivationOfOneTransfer := by
  refine ⟨fun s i n w present quiet idle undone supported => ?quiet, fun s g i present idle undone raised => ?nested⟩
  case quiet =>
    rw [exec_executeActivation present, exec_minorTransfer present, minorTransfer_quiet quiet supported]
    refine ⟨fun mode more off => ?_, fun ends => ⟨fun unlinked => ?_, fun linked => ?_⟩⟩
    · have more := State.transferOnce_done_of_more w present mode more
      refine executeActivation_eq_transfer present quiet idle undone supported (.inl (more.trans undone)) ?_
      simp [State.transferOnce_signalOn w present, off]
    · have done := State.transferOnce_done_of_ends w present ends
      refine executeActivation_eq_transfer present quiet idle undone supported (.inr ?_) (by simp [done])
      rw [State.transferOnce_link w present, unlinked]
    · have there : i < (s.transferOnce i n w).numChannels := by simpa using present
      have done := State.transferOnce_done_of_ends w present ends
      have links := (State.transferOnce_link w present (n := n)).trans linked
      exact ⟨_, _, (s.transferOnce i n w).chainOn i, rfl, exec_chainLoad there, State.chainOn_channelBecomes there,
        executeActivation_eq_chainOn present quiet idle undone supported rfl done links⟩
  case nested =>
    obtain rfl : g = s.guard i true := raised.unique (State.guard_channelBecomes present true)
    have activation := (exec_executeActivation present).trans (executeActivation_eq_first (nest := s.nest) idle undone)
    have transfer : exec (.minorTransfer i) (s.guard i true) = minorTransfer s.nest i (s.guard i true) :=
      exec_minorTransfer (s := s.guard i true) (by simpa using present)
    rw [transfer]
    refine ⟨fun stops => ?_, fun t run => ?_⟩
    · rw [activation, andThen_of_stops (f := continueLoop _ _ _) stops, andThen_of_stops stops]
    rw [run, andThen_next] at activation
    have channels : t.numChannels = s.numChannels := by
      simpa using (State.Kept.engineLifts.minorTransfer (State.Kept.lifts.nested _) i _ t run).numChannels
    have there : i < t.numChannels := channels ▸ present
    have taken : s.ScriptTaken t := State.ScriptTaken.copyLifts.exec _ (s.guard i true) t (transfer.trans run)
    have active : (t.chan i).inProgress = true :=
      State.GuardHeld.engineLifts.minorTransfer (State.GuardHeld.lifts.nested _) i _ t run i
        (by rw [State.chan_guard_self present])
    refine ⟨fun stays => ⟨t.guard i false, State.guard_channelBecomes there false, ?_⟩, fun done link => ?_⟩
    · rw [continueLoop_of_stays _ stays] at activation
      split
      next goesOn =>
        rw [if_pos goesOn] at activation
        exact fun r runs => exec_executeActivation_of_loop taken there active goesOn.1 fuelAfterFirst_le (activation ▸ runs)
      next ends => rw [activation, if_neg ends, andThen_next]
    · rw [continueLoop_of_links _ there done link] at activation
      have cleared : ChannelBecomes (t.chainLoad i) ((t.chainOn i).guard i false) i
          { (t.chainLoad i).chan i with done := false, inProgress := false } := by
        rw [State.chainOn, State.guard, State.updateChan_updateChan]
        exact (t.chainLoad i).updateChan_channelBecomes _ (by simpa using there)
      refine ⟨_, _, exec_chainLoad there, cleared, ?_⟩
      rw [State.guard_desc, State.signalOn_guard]
      split
      next goesOn =>
        rw [if_pos goesOn] at activation
        have active' : ((t.chainOn i).chan i).inProgress = true := State.GuardHeld.engineLifts.chainOn i t i active
        have undone' : ((t.chainOn i).chan i).done = false := by rw [State.chan_chainOn_self there]
        exact fun r runs => exec_executeActivation_of_loop (u := t.chainOn i) taken (by simpa using there) active' undone'
          fuelAfterFirst_le (activation ▸ runs)
      next ends => rw [activation, if_neg ends, andThen_next]

end Sys2Proof.Machine
end

section
/-! PROOFS. A descriptor run to its end (42_channel_engine R175, R195): by induction on what remains, block after block, and then
the end of the activation or the successor. -/

namespace Sys2Proof.Machine

/-! ### The blocks of a descriptor -/

/-- The units of a later block: as many as the first, or what is left. -/
theorem transferUnits_later {d e : TransferDescriptor} {n : Nat} (units : transferUnits d = some n)
    (mode : d.requestMode = .block) (sameMode : e.requestMode = d.requestMode) (sameBlock : e.blockSize = d.blockSize)
    (fewer : remaining e ≤ remaining d) : transferUnits e = some (min n (remaining e)) := by
  obtain ⟨b, hb, rfl⟩ := Option.map_eq_some_iff.mp (transferUnits_block mode ▸ units)
  have later : ∃ b', blockUnits e.blockSize (remaining e) = some b' ∧ min (remaining e) b' = min (remaining e) b := by
    rw [sameBlock]
    cases code : d.blockSize with
    | all =>
      rw [code] at hb
      cases hb
      exact ⟨_, rfl, by omega⟩
    | _ => rw [code] at hb; exact ⟨b, hb, rfl⟩
  obtain ⟨b', hb', same⟩ := later
  rw [transferUnits_block (sameMode.trans mode), hb', Option.map_some, same]
  congr 1
  omega

theorem storesTo_copyOf {d : TransferDescriptor} {n w : Nat} {a : Word} (stores : storesTo (copyOf d n w) a) :
    ∃ k b, k < n ∧ b < w ∧
      a = d.destinationAddress + BitVec.ofNat 32 (addressStep d.destinationIncrement w * k) + BitVec.ofNat 32 b := by
  obtain ⟨k, b, low, hb, here⟩ := stores
  exact ⟨k, b, Nat.lt_of_mul_lt_mul_right low, hb, here⟩

/-- The call of a block, its addresses advanced from the descriptor's. -/
theorem copyOfBlock_eq (d : TransferDescriptor) (n w k : Nat) : copyOfBlock d n w k =
    .copy (advance d.sourceAddress (addressStep d.sourceIncrement w) (n * k))
      (advance d.destinationAddress (addressStep d.destinationIncrement w) (n * k)) (min n (remaining d - n * k) * w) w w
      (addressStep d.sourceIncrement w) (addressStep d.destinationIncrement w)
      (advance d.sourceAddress (addressStep d.sourceIncrement w) (n * k + min n (remaining d - n * k)))
      (advance d.destinationAddress (addressStep d.destinationIncrement w) (n * k + min n (remaining d - n * k))) := rfl

/-- The first block is a whole one, or all that is left. -/
theorem copyOfBlock_zero (d : TransferDescriptor) (n w : Nat) : copyOfBlock d n w 0 = copyOf d (min n (remaining d)) w := by
  simp [copyOfBlock_eq, copyCall, planOf]

/-- `e` is what is left of `d` after a block of `n` units of `w` bytes that leaves more (42_channel_engine R183). -/
structure BlockMoved (d e : TransferDescriptor) (n w : Nat) : Prop where
  eq : e = { d with
    transferCount := e.transferCount
    sourceAddress := advance d.sourceAddress (addressStep d.sourceIncrement w) n
    destinationAddress := advance d.destinationAddress (addressStep d.destinationIncrement w) n }
  left : remaining e = remaining d - n

section
variable {d e : TransferDescriptor} {n w : Nat} (h : BlockMoved d e n w)
include h

theorem BlockMoved.source : e.sourceAddress = advance d.sourceAddress (addressStep d.sourceIncrement w) n := by rw [h.eq]

theorem BlockMoved.destination :
    e.destinationAddress = advance d.destinationAddress (addressStep d.destinationIncrement w) n := by rw [h.eq]

theorem BlockMoved.sourceIncrement : e.sourceIncrement = d.sourceIncrement := by rw [h.eq]

theorem BlockMoved.destinationIncrement : e.destinationIncrement = d.destinationIncrement := by rw [h.eq]

/-- The later blocks of a descriptor are the blocks of what its first one leaves. -/
theorem BlockMoved.copyOfBlock_succ (k : Nat) : copyOfBlock d n w (k + 1) = copyOfBlock e n w k := by
  have start : n * (k + 1) = n + n * k := by rw [Nat.mul_succ, Nat.add_comm]
  have units : remaining d - (n + n * k) = remaining d - n - n * k := by omega
  simp only [copyOfBlock_eq, h.source, h.destination, h.sourceIncrement, h.destinationIncrement, h.left, advance_advance, start,
    units, Nat.add_assoc]

/-- They are the first block, and then those of what it leaves. -/
theorem BlockMoved.blocks (positive : 1 ≤ n) (more : n < remaining d) :
    (List.range ((remaining d + n - 1) / n)).map (copyOfBlock d n w) =
      copyOf d n w :: (List.range ((remaining e + n - 1) / n)).map (copyOfBlock e n w) := by
  have count : (remaining d + n - 1) / n = (remaining e + n - 1) / n + 1 := by
    rw [← Nat.add_div_right _ positive, h.left]
    congr 1
    omega
  rw [count, List.range_succ_eq_map, List.map_cons, List.map_map, copyOfBlock_zero, min_eq_left more.le]
  exact congrArg _ (List.map_congr_left fun k _ => h.copyOfBlock_succ k)

end

/-- Where at most one block is left there is one block, of all that is left. -/
theorem blocks_of_last {d : TransferDescriptor} {n : Nat} (w : Nat) (last : remaining d ≤ n) :
    (List.range ((remaining d + n - 1) / n)).map (copyOfBlock d n w) = [copyOf d (remaining d) w] := by
  have positive := remaining_pos d
  have count : (remaining d + n - 1) / n = 1 := Nat.div_eq_of_lt_le (by omega) (by omega)
  rw [count, List.range_one, List.map_singleton, copyOfBlock_zero, min_eq_right last]

/-! ### Nothing makes the descriptor wait -/

/-- The live descriptor of channel `i` is supported, moves units of `w` bytes in blocks of `n`, the last one short, and nothing
makes it wait: at most one block is left, or the signal is on. -/
structure State.Moving (s : State) (i n w : Nat) : Prop where
  present : i < s.numChannels
  quiet : s.quiet
  undone : (s.chan i).done = false
  supported : s.supports i (min n (remaining (s.chan i).desc)) w
  unhindered : remaining (s.chan i).desc ≤ n ∨ s.signalOn i = true

/-- The last block, or `All` mode's one transfer, moves what is left. -/
theorem State.Moving.last {s : State} {i n w : Nat} (h : s.Moving i n w) (last : remaining (s.chan i).desc ≤ n) :
    DescriptorMoved s (s.transferOnce i (remaining (s.chan i).desc) w) i n w := by
  have supported : s.supports i (remaining (s.chan i).desc) w := by simpa [last] using h.supported
  refine ⟨by rw [blocks_of_last w last]; exact s.transferOnce_eq i _ w h.quiet, s.transferOnce_numChannels i _ w,
    fun k => s.transferOnce_chan_other i _ w, fun wf => ⟨State.wf_insideCopy wf i _ w _, ?_⟩, fun a outside => ?_, ?_⟩
  · exact congrFun (State.transferOnce_readByte wf supported.width_le)
  · refine s.transferOnce_readByte_other _ w h.present h.quiet supported fun stores => ?_
    obtain ⟨k, b, hk, hb, here⟩ := storesTo_copyOf stores
    exact outside k b hk hb here
  · rw [s.transferOnce_chan_self _ w h.present]
    cases mode : (s.chan i).desc.requestMode with
    | all => simp [transferred_all w _ mode, h.undone]
    | block => simp [transferred_last w _ mode rfl, h.undone, advance, mode]

section
variable {s : State} {i n w : Nat} (h : s.Moving i n w) (more : n < remaining (s.chan i).desc)
include h more

theorem State.Moving.supports_block : s.supports i n w := by
  simpa [more.le] using h.supported

/-- Only blocks leave more. -/
theorem State.Moving.mode : (s.chan i).desc.requestMode = .block := by
  cases mode : (s.chan i).desc.requestMode with
  | block => rfl
  | all =>
    have all := Option.some.inj ((transferUnits_all mode).symm.trans (h.supports_block more).2.2)
    exact absurd all more.ne'

/-- A block that leaves more leaves the channel with the rest. -/
theorem State.Moving.chan_transferOnce : ∃ e, BlockMoved (s.chan i).desc e n w ∧
    (s.transferOnce i n w).chan i = { s.chan i with desc := e } := by
  refine ⟨_, ⟨?_, ?_⟩, (s.transferOnce_chan_self n w h.present).trans (transferred_more w _ (h.mode more) more)⟩
  · rfl
  · have few := remaining_le (s.chan i).desc
    simp only [remaining, BitVec.toNat_ofNat] at *
    omega

/-- What a block that leaves more leaves is moving still. -/
theorem State.Moving.transferOnce : (s.transferOnce i n w).Moving i n w := by
  obtain ⟨e, moved, chan⟩ := h.chan_transferOnce more
  obtain ⟨kind, width, units⟩ := h.supports_block more
  have on := h.unhindered.resolve_left (Nat.not_le.mpr more)
  refine ⟨by simpa using h.present, ?_, by rw [chan]; exact h.undone, ?_,
    .inr ((State.transferOnce_signalOn w h.present).trans on)⟩
  · rw [State.quiet, s.transferOnce_eq i n w h.quiet]
    exact h.quiet
  · have fewer : remaining e ≤ remaining (s.chan i).desc := moved.left ▸ Nat.sub_le _ _
    rw [State.supports, chan]
    refine ⟨?_, ?_, transferUnits_later units (h.mode more) ?_ ?_ fewer⟩
    all_goals rw [moved.eq]
    · exact kind
    · exact width

/-- A block and then the rest are the descriptor. -/
theorem State.Moving.descriptorMoved {t : State} (rest : DescriptorMoved (s.transferOnce i n w) t i n w) :
    DescriptorMoved s t i n w := by
  obtain ⟨e, moved, chan⟩ := h.chan_transferOnce more
  obtain ⟨state, channels, others, bytes, frame, self⟩ := rest
  rw [chan] at state bytes frame self
  dsimp only at state bytes frame self
  have positive := (h.supports_block more).units_bounds.1
  have all : n + remaining e = remaining (s.chan i).desc := by rw [moved.left]; omega
  refine ⟨?_, channels.trans (s.transferOnce_numChannels i n w), fun k other => ?_, fun wf => ?_, fun a outside => ?_, ?_⟩
  · rw [state, s.transferOnce_eq i n w h.quiet, moved.blocks positive more]
    simp
  · rw [others k other, s.transferOnce_chan_other i n w other]
  · have hw := h.supported.width_le
    obtain ⟨wf', rest⟩ := bytes (State.wf_insideCopy wf i n w n)
    refine ⟨wf', fun a => ?_⟩
    rw [rest, State.transferOnce_readByte wf hw, moved.source, moved.destination, moved.sourceIncrement,
      moved.destinationIncrement, ← unitsMoved_add, all]
  · have later := frame a fun k b hk hb => by
      rw [moved.destination, moved.destinationIncrement]
      have apart := outside (n + k) b (by omega) hb
      rwa [← advance, ← advance_advance, advance] at apart
    refine later.trans (s.transferOnce_readByte_other n w h.present h.quiet (h.supports_block more) fun stores => ?_)
    obtain ⟨k, b, hk, hb, here⟩ := storesTo_copyOf stores
    exact outside k b (hk.trans more) hb here
  · have mode := h.mode more
    have mode' : e.requestMode = .block := by rw [moved.eq]; exact mode
    have src := moved.source ▸ advance_advance (s.chan i).desc.sourceAddress
      (addressStep (s.chan i).desc.sourceIncrement w) n (remaining e)
    have dst := moved.destination ▸ advance_advance (s.chan i).desc.destinationAddress
      (addressStep (s.chan i).desc.destinationIncrement w) n (remaining e)
    rw [← moved.sourceIncrement, all] at src
    rw [← moved.destinationIncrement, all] at dst
    rw [self, if_neg (by simp [mode']), if_neg (by simp [mode]), ← advance, ← advance, src, dst, moved.sourceIncrement,
      moved.destinationIncrement, moved.eq]
    rfl

end

/-- The loop moves a descriptor that nothing makes wait, and then goes on from where it is moved. -/
theorem State.Moving.activationLoop {s : State} {i n w : Nat} (h : s.Moving i n w) (nest : Nest) : ∃ t spent,
    DescriptorMoved s t i n w ∧ spent ≤ remaining (s.chan i).desc ∧
      ∀ fuel, activationLoop nest i (fuel + spent) s = continueLoop nest i fuel t := by
  induction size : remaining (s.chan i).desc using Nat.strong_induction_on generalizing s with
  | _ size ih =>
    subst size
    by_cases more : n < remaining (s.chan i).desc
    · let u := s.transferOnce i n w
      obtain ⟨e, moved, chan⟩ := h.chan_transferOnce more
      have positive := (h.supports_block more).units_bounds.1
      have left : remaining (u.chan i).desc = remaining (s.chan i).desc - n := by rw [chan]; exact moved.left
      obtain ⟨t, spent, rest, few, run⟩ := ih _ (by omega) (h.transferOnce more) left
      refine ⟨t, spent + 1, h.descriptorMoved more rest, by omega, fun fuel => ?_⟩
      have undone : (u.chan i).done = false := (h.transferOnce more).undone
      have on : u.signalOn i = true := (State.transferOnce_signalOn w h.present).trans (h.unhindered.resolve_left (by omega))
      rw [← Nat.add_assoc, activationLoop_eq, minorTransfer_quiet h.quiet (h.supports_block more), andThen_next,
        continueLoop_of_stays _ (.inl undone), if_pos ⟨undone, on⟩]
      exact run fuel
    · have last : remaining (s.chan i).desc ≤ n := Nat.not_lt.mp more
      refine ⟨_, 1, h.last last, remaining_pos _, fun fuel => ?_⟩
      have supported := h.supported
      rw [min_eq_right last] at supported
      rw [activationLoop_eq, minorTransfer_quiet h.quiet supported, andThen_next]

/-! ### The descriptor of an activation -/

section
variable {s t : State} {i n w : Nat}

/-- What `DescriptorMoved` says of the channel, without the guard. -/
theorem DescriptorMoved.unguard (present : i < s.numChannels) (idle : (s.chan i).inProgress = false)
    (h : DescriptorMoved (s.guard i true) t i n w) : DescriptorMoved s (t.guard i false) i n w := by
  obtain ⟨state, channels, others, bytes, frame, self⟩ := h
  simp only [State.numChannels_guard, State.chan_guard_self present] at *
  refine ⟨?_, by simpa using channels, fun k other => ?_, bytes, frame, ?_⟩
  · rw [state]; rfl
  · rw [t.chan_guard_other other, others k other, s.chan_guard_other other]
  · rw [State.chan_guard_self (channels ▸ present), self, ← idle]

variable (h : DescriptorMoved s t i n w)
include h

theorem DescriptorMoved.chan_eq : ∃ e, t.chan i =
    { s.chan i with
      done := true, doneInterrupt := (s.chan i).doneInterrupt || (s.chan i).desc.doneInterruptEnable, desc := e } ∧
    e.link = (s.chan i).desc.link := by
  obtain ⟨-, -, -, -, -, self⟩ := h
  refine ⟨_, self, ?_⟩
  split <;> rfl

theorem DescriptorMoved.numChannels : t.numChannels = s.numChannels := h.2.1

theorem DescriptorMoved.copyEnv : t.copyEnv = s.copyEnv := by rw [h.1]

end

/-- What `finishes` says is that the descriptor moves, its guard set. -/
theorem State.moving_of_finishes {s : State} {i n w : Nat} (h : s.finishes i n w) : (s.guard i true).Moving i n w := by
  obtain ⟨present, quiet, -, undone, supported, unhindered⟩ := h
  have units : min n (remaining (s.chan i).desc) = n := min_eq_left supported.units_bounds.2
  refine ⟨by simpa using present, quiet, by simpa using undone, ?_, ?_⟩
  · rw [State.supports_guard, State.guard_desc, units]
    exact supported
  · rw [State.guard_desc, State.signalOn_guard]
    rcases unhindered with all | last | on
    · exact .inl (Option.some.inj ((transferUnits_all all).symm.trans supported.2.2)).le
    · exact .inl last.le
    · exact .inr on

/-- An activation that nothing makes wait moves its descriptor, and its loop goes on from there with fuel to spare. -/
theorem State.finishes.moves {s : State} {i n w : Nat} (h : s.finishes i n w) (nest : Nest) : ∃ t spent,
    DescriptorMoved s t i n w ∧ spent ≤ 2048 ∧ ∀ fuel,
      Machine.activationLoop nest i (fuel + spent) (s.guard i true) = continueLoop nest i fuel (t.guard i true) := by
  obtain ⟨t, spent, moved, few, run⟩ := (State.moving_of_finishes h).activationLoop nest
  obtain ⟨present, -, idle, -⟩ := h
  obtain ⟨e, chan, -⟩ := moved.chan_eq
  have there : i < t.numChannels := by simpa [moved.numChannels] using present
  have active : (t.chan i).inProgress = true := by rw [chan, State.chan_guard_self present]
  refine ⟨t.guard i false, spent, moved.unguard present idle, few.trans (remaining_le _), fun fuel => ?_⟩
  rw [State.guard_guard, State.guard_eq_self there active]
  exact run fuel

/-- Without a link the loop ends there. -/
theorem State.finishes.ends {s : State} {i n w : Nat} (h : s.finishes i n w) (unlinked : (s.chan i).desc.link = false)
    (nest : Nest) : ∃ t spent, DescriptorMoved s t i n w ∧ spent ≤ 2048 ∧ ∀ fuel,
      Machine.activationLoop nest i (fuel + spent) (s.guard i true) = .next (t.guard i true) := by
  obtain ⟨t, spent, moved, few, run⟩ := h.moves nest
  obtain ⟨e, chan, link⟩ := moved.chan_eq
  refine ⟨t, spent, moved, few, fun fuel => ?_⟩
  rw [run, continueLoop_of_stays _ (.inr (by rw [State.guard_desc, chan]; exact link.trans unlinked)),
    if_neg (by simp [chan])]

/-- A run of two descriptors is well below the fuel of an activation. -/
theorem loopFuel_split {a b : Nat} (ha : a ≤ 2048) (hb : b ≤ 2048) : ∃ fuel, Config.loopFuel = fuel + b + a :=
  ⟨Config.loopFuel - b - a, by unfold Config.loopFuel; omega⟩

/-- Settles O56: the loop moves the descriptor and ends there, with `done` set; a tick then disarms. -/
theorem heldRequestRunsToCompletion : Obligations.HeldRequestRunsToCompletion := by
  intro s i n w finishes unlinked
  obtain ⟨t, spent, moved, few, run⟩ := finishes.ends unlinked s.nest
  obtain ⟨present, -, idle, undone, -⟩ := finishes
  obtain ⟨e, chan, -⟩ := moved.chan_eq
  obtain ⟨fuel, enough⟩ := loopFuel_split few (Nat.zero_le 2048)
  have there : i < t.numChannels := moved.numChannels ▸ present
  have activation : exec (.executeActivation i) s = .next t := by
    rw [exec_executeActivation present, executeActivation_of_idle idle undone, enough, run, andThen_next, State.guard_guard,
      State.guard_eq_self there (by rw [chan]; exact idle)]
  refine ⟨t, activation, moved, fun armed enabled on => ?_⟩
  obtain ⟨v, tick, disarmed⟩ := (tickActivatesThenDisarms s i present armed).2 enabled on t activation
  rw [if_pos (.inr (by rw [chan]))] at disarmed
  exact ⟨v, tick, disarmed⟩

/-- Settles O57: the loop moves the descriptor and chain-loads; it ends there, or it is an activation of the successor, whose own
run has fuel enough. -/
theorem chainedDescriptorRunsInTheSameActivation : Obligations.ChainedDescriptorRunsInTheSameActivation := by
  intro s i n w finishes linked
  obtain ⟨t, spent, moved, few, run⟩ := finishes.moves s.nest
  obtain ⟨present, quiet, idle, undone, -⟩ := finishes
  obtain ⟨e, chan, link⟩ := moved.chan_eq
  have there : i < t.numChannels := moved.numChannels ▸ present
  have there' : i < (t.chainOn i).numChannels := by simpa using there
  have chan' : (t.chainOn i).chan i = { (t.chainLoad i).chan i with done := false } := State.chan_chainOn_self there
  rw [State.chan_chainLoad_self there, chan] at chan'
  have idle' : ((t.chainOn i).chan i).inProgress = false := by rw [chan']; exact idle
  have undone' : ((t.chainOn i).chan i).done = false := by rw [chan']
  have activation (fuel : Nat) (enough : Config.loopFuel = fuel + spent) : exec (.executeActivation i) s =
      andThen (if ((t.chainOn i).chan i).desc.autoRequest = true ∨ (t.chainOn i).signalOn i = true
        then activationLoop s.nest i fuel ((t.chainOn i).guard i true) else .next ((t.chainOn i).guard i true))
        fun r => .next (r.guard i false) := by
    rw [exec_executeActivation present, executeActivation_of_idle idle undone, enough, run,
      continueLoop_of_links _ (by simpa using there) (by simp [chan]) (by simp [chan, link, linked]), State.chainOn_guard]
    simp only [State.guard_desc, State.signalOn_guard]
  refine ⟨t, t.chainLoad i, t.chainOn i, moved, exec_chainLoad there, State.chainOn_channelBecomes there, by rw [chan'],
    fun noAuto off => ?_, fun goesOn => ⟨fun r runs => ?_, fun m b finishes' unlinked => ?_⟩⟩
  · obtain ⟨fuel, enough⟩ := loopFuel_split few (Nat.zero_le 2048)
    rw [activation _ enough, if_neg (by simp [noAuto, off]), andThen_next, State.guard_guard, State.guard_eq_self there' idle']
  · obtain ⟨fuel, enough⟩ := loopFuel_split few (Nat.zero_le 2048)
    rw [activation _ enough, if_pos goesOn] at runs
    have taken : s.ScriptTaken ((t.chainOn i).guard i true) := .of_eq moved.copyEnv
    have again := exec_executeActivation_of_loop taken (by simpa using there') (by rw [State.chan_guard_self there'])
      (by simpa using undone') (by rw [enough]; exact Nat.le_add_right _ _) runs
    rwa [State.guard_guard, State.guard_eq_self there' idle'] at again
  · obtain ⟨r, spent', moved', few', run'⟩ := finishes'.ends unlinked s.nest
    obtain ⟨e', chanR, link'⟩ := moved'.chan_eq
    obtain ⟨fuel, enough⟩ := loopFuel_split few few'
    refine ⟨r, ?_, moved', by rw [chanR], by rw [chanR]; exact link'.trans unlinked⟩
    rw [activation _ enough, if_pos goesOn, run', andThen_next, State.guard_guard,
      State.guard_eq_self (moved'.numChannels ▸ there') (by rw [chanR]; exact idle')]

end Sys2Proof.Machine
end

section
/-! PROOFS. A side effect of many channels, one after the other (44_register_ops R231, 43_crossbar R213): channels it skips, one
channel it serves, channels it updates; and each turn as the row of its own. -/

namespace Sys2Proof.Machine

/-! ### Loops over channels -/

/-- A loop whose body skips every channel changes nothing. -/
theorem forEach_skips {act : Nat → State → Out} {is : List Nat} {s : State} (skips : ∀ i ∈ is, act i s = .next s) :
    forEach act is s = .next s := by
  induction is with
  | nil => rfl
  | cons i rest ih =>
    rw [forEach_cons, skips i List.mem_cons_self, andThen_next, ih fun k mem => skips k (List.mem_cons_of_mem i mem)]

/-- A loop whose body skips every channel but `i`, before the turn of `i` and after it, is that turn. -/
theorem forEach_eq_single {act : Nat → State → Out} {is : List Nat} {s : State} {i : Nat} (distinct : is.Nodup)
    (mem : i ∈ is)
    (before : ∀ k ∈ is, k ≠ i → act k s = .next s)
    (after : ∀ t, act i s = .next t → ∀ k ∈ is, k ≠ i → act k t = .next t) : forEach act is s = act i s := by
  induction is with
  | nil => cases mem
  | cons j rest ih =>
    obtain ⟨fresh, distinct⟩ := List.nodup_cons.mp distinct
    rw [forEach_cons]
    by_cases here : j = i
    · subst here
      cases turn : act j s with
      | next t =>
        exact forEach_skips fun k later =>
          after t turn k (List.mem_cons_of_mem j later) (ne_of_mem_of_not_mem later fresh)
      | fault | refused => rfl
    · rw [before j List.mem_cons_self here, andThen_next]
      exact ih distinct ((List.mem_cons.mp mem).resolve_left (Ne.symm here))
        (fun k later => before k (List.mem_cons_of_mem j later))
        (fun t turn k later => after t turn k (List.mem_cons_of_mem j later))

theorem SameButChannels.refl (s : State) : SameButChannels s s := ⟨rfl, rfl⟩

theorem SameButChannels.trans {s t u : State} (h : SameButChannels s t) (k : SameButChannels t u) : SameButChannels s u := by
  obtain ⟨eqT, longT⟩ := h
  obtain ⟨eqU, longU⟩ := k
  exact ⟨eqU.trans (by rw [eqT]), longU.trans longT⟩

theorem SameButChannels.params {s t : State} (h : SameButChannels s t) : t.params = s.params := by rw [h.1]

/-- A loop whose body updates the channel whose turn it is, given that no turn before touched it, updates every channel of the
list and nothing else. -/
theorem forEach_channelsBecome {act : Nat → State → Out} {f : Channel → Channel} {s : State} {is : List Nat}
    (distinct : is.Nodup)
    (turn : ∀ i ∈ is, ∀ t, SameButChannels s t → t.chan i = s.chan i →
      ∃ u, act i t = .next u ∧ ChannelBecomes t u i (f (s.chan i)))
    {t : State} (same : SameButChannels s t) (untouched : ∀ i ∈ is, t.chan i = s.chan i) :
    ∃ u, forEach act is t = .next u ∧ SameButChannels s u ∧
      ∀ k, u.chan k = if k ∈ is then f (s.chan k) else t.chan k := by
  induction is generalizing t with
  | nil => exact ⟨t, rfl, same, fun k => (if_neg List.not_mem_nil).symm⟩
  | cons i rest ih =>
    obtain ⟨fresh, distinct⟩ := List.nodup_cons.mp distinct
    obtain ⟨v, first, sameV, hereV, otherV⟩ := turn i List.mem_cons_self t same (untouched i List.mem_cons_self)
    obtain ⟨u, run, sameU, chanU⟩ :=
      ih distinct (fun k mem => turn k (List.mem_cons_of_mem i mem)) (same.trans sameV) fun k mem =>
        (otherV k (ne_of_mem_of_not_mem mem fresh)).trans (untouched k (List.mem_cons_of_mem i mem))
    refine ⟨u, by rw [forEach_cons, first, andThen_next, run], sameU, fun k => ?_⟩
    rw [chanU k]
    by_cases here : k = i
    · rw [here, if_neg fresh, if_pos List.mem_cons_self, hereV]
    · simp only [List.mem_cons, here, false_or, otherV k here]

/-! ### Each turn as a row of its own -/

/-- The bound of an operation begun earlier gives the answer the bound of the state itself gives (log 10). -/
theorem Composed.nest_of_taken {s t : State} {o : Nest → Out} (taken : s.ScriptTaken t) (h : Composed t o) :
    o s.nest = o t.nest := by
  have more := h.more_nest (s.copyEnv.length - t.copyEnv.length)
  rwa [Nat.add_sub_cancel' taken.length_le] at more

/-- A side effect of many channels is a row for each in turn: the channels stay the same in number, and what is nested in one
turn leaves the next a script that its own bound covers. -/
theorem forEach_eq_inTurn {act : Nest → Nat → State → Out} {row : Nat → State → Out} {s : State} {is : List Nat}
    (composed : ∀ i t, Composed t fun nest => act nest i t) (keeps : ∀ i t u, act s.nest i t = .next u → t.Kept u)
    (isRow : ∀ i ∈ is, ∀ t, t.numChannels = s.numChannels → act t.nest i t = row i t)
    {t : State} (long : t.numChannels = s.numChannels) (taken : s.ScriptTaken t) :
    forEach (act s.nest) is t = inTurn row is t := by
  rw [inTurn_eq_forEach]
  induction is generalizing t with
  | nil => rfl
  | cons i rest ih =>
    have own : act s.nest i t = row i t :=
      ((composed i t).nest_of_taken taken).trans (isRow i List.mem_cons_self t long)
    refine andThen_congr own fun u run => ?_
    rw [← own] at run
    have left : t.ScriptTaken u :=
      (composed i t).rel State.ScriptTaken.copyLifts (State.ScriptTaken.copyLifts.nested _) u run
    exact ih (fun k mem => isRow k (List.mem_cons_of_mem i mem)) ((keeps i t u run).numChannels.trans long) (left.trans taken)

end Sys2Proof.Machine
end

section
/-! PROOFS. The engine's operations of one channel leave every other channel as it is, where what is nested does. -/

namespace Sys2Proof.Machine

/-- Channel `k` is the same in `s` and in `t`. -/
def State.SameChannel (k : Nat) (s t : State) : Prop := t.chan k = s.chan k

theorem State.SameChannel.refl {k : Nat} (s : State) : s.SameChannel k s := rfl

theorem State.SameChannel.trans {k : Nat} (s t u : State) (h : s.SameChannel k t) (h' : t.SameChannel k u) :
    s.SameChannel k u := Eq.trans h' h

theorem State.SameChannel.of_ch {k : Nat} {s t : State} (ch : t.ch = s.ch) : s.SameChannel k t := State.chan_of_ch t s ch k

section
variable {i k : Nat} (other : k ≠ i)
include other

theorem State.SameChannel.updateChan (s : State) (f : Channel → Channel) : s.SameChannel k (s.updateChan i f) :=
  s.chan_updateChan_other i k f other

theorem State.SameChannel.afterCopy (d : TransferDescriptor) (p : TransferPlan) (s : State) :
    s.SameChannel k (afterCopy i d p s) := by
  unfold Machine.afterCopy
  cases d.requestMode with
  | all => exact .updateChan other s _
  | block =>
    refine .trans _ _ _ ?_ (.updateChan other _ _)
    split
    · exact .updateChan other s _
    · exact .refl s

theorem State.SameChannel.chained (s : State) : s.SameChannel k (s.chained i) := by
  unfold State.chained
  split
  · exact .trans _ _ _ (s.chan_chainLoad_other other) (.updateChan other _ _)
  · exact .refl s

variable {nest : Nest} (N : NestRel (State.SameChannel k) nest)
include N

omit other in
theorem State.SameChannel.copy (src dst : Word) (p : TransferPlan) (s t : State) (run : copy nest src dst p s = .next t) :
    s.SameChannel k t :=
  have begun : s.SameChannel k (s.beginCopy (copyCall src dst p)) := .of_ch rfl
  have moved : (s.beginCopy (copyCall src dst p)).SameChannel k t :=
    copyUnits_rel .refl .trans N (fun u _ _ => .of_ch (u.moveUnit_ch _ _ _)) _ p.units le_rfl _ t run
  begun.trans _ _ _ moved

theorem State.SameChannel.minorTransfer (s t : State) (run : minorTransfer nest i s = .next t) : s.SameChannel k t := by
  simp only [Machine.minorTransfer] at run
  split at run
  · cases run; exact .of_ch rfl
  · obtain ⟨u, copied, ends⟩ := andThen_eq_next.mp run
    cases ends
    exact .trans _ _ _ (.copy N _ _ _ s u copied) (.afterCopy other _ _ u)

theorem State.SameChannel.activationLoop (fuel : Nat) (s t : State) (run : activationLoop nest i fuel s = .next t) :
    s.SameChannel k t := by
  induction fuel generalizing s with
  | zero => cases run
  | succ fuel ih =>
    obtain ⟨u, transfer, rest⟩ := andThen_eq_next.mp run
    have before : s.SameChannel k (u.chained i) :=
      .trans _ _ _ (.minorTransfer other N s u transfer) (.chained other u)
    split at rest
    · exact .trans _ _ _ before (ih _ rest)
    · cases rest; exact before

theorem State.SameChannel.executeActivation (s t : State) (run : executeActivation nest i s = .next t) :
    s.SameChannel k t := by
  unfold Machine.executeActivation at run
  split at run
  · cases run; exact .refl s
  · obtain ⟨u, loop, ends⟩ := andThen_eq_next.mp run
    cases ends
    have inside : s.SameChannel k u :=
      .trans _ _ _ (s.chan_guard_other other true) (.activationLoop other N _ _ u loop)
    exact .trans _ _ _ inside (u.chan_guard_other other false)

theorem State.SameChannel.attemptStart (s t : State) (run : attemptStart nest i s = .next t) : s.SameChannel k t := by
  unfold Machine.attemptStart at run
  split at run
  · cases run; exact .updateChan other s _
  · exact .trans _ _ _ (.of_ch (s.reportPull_ch i)) (.executeActivation other N _ t run)

end

end Sys2Proof.Machine
end

section
/-! PROOFS. The crossbar (43_crossbar): the match test and the query (R211, R215), deassertion (R214), and the scan of an
assertion (R210, R213). -/

namespace Sys2Proof.Machine

/-! ### The match test and the query -/

theorem matchesOf_eq_true {c : Channel} {k : SignalId} : matchesOf c k = true ↔
    c.sourceSelector = k.source ∧ c.signalSelector = k.signal ∧ (k.single = false ∨ c.desc.ignoreSingleRequests = false) := by
  simp [matchesOf, and_assoc]

theorem exec_matchesId {s : State} {i : Nat} (present : i < s.numChannels) (k : SignalId) :
    exec (.matchesId i k) s = .next (s.answer (.flag (matchesOf (s.chan i) k))) := withChannel_of_lt _ present

theorem exec_signalIsOn {s : State} {i : Nat} (present : i < s.numChannels) :
    exec (.signalIsOn i) s = .next (s.answer (.flag (s.signalOn i))) := withChannel_of_lt _ present

/-- The signal is on when the plain identifier is asserted, or the single one and the channel does not ignore it. -/
theorem State.signalOn_eq_true {s : State} {i : Nat} : s.signalOn i = true ↔
    (⟨(s.chan i).sourceSelector, (s.chan i).signalSelector, false⟩ : SignalId) ∈ s.asserted ∨
      ((⟨(s.chan i).sourceSelector, (s.chan i).signalSelector, true⟩ : SignalId) ∈ s.asserted ∧
        (s.chan i).desc.ignoreSingleRequests = false) := by
  simp [State.signalOn]

/-- The query is the match test over the members of the set: the only members that can match are the plain and the single
identifier of the channel's pair. -/
theorem State.signalOn_iff_matches {s : State} {i : Nat} :
    s.signalOn i = true ↔ ∃ k ∈ s.asserted, matchesOf (s.chan i) k = true := by
  rw [State.signalOn_eq_true]
  constructor
  · rintro (plain | ⟨single, heeded⟩)
    · exact ⟨_, plain, matchesOf_eq_true.mpr ⟨rfl, rfl, .inl rfl⟩⟩
    · exact ⟨_, single, matchesOf_eq_true.mpr ⟨rfl, rfl, .inr heeded⟩⟩
  · rintro ⟨⟨source, signal, single⟩, member, test⟩
    obtain ⟨sameSource, sameSignal, heeded⟩ := matchesOf_eq_true.mp test
    rw [sameSource, sameSignal]
    cases single with
    | false => exact .inl member
    | true => exact .inr ⟨member, heeded.resolve_left (Bool.noConfusion ·)⟩

/-- Settles O43: the query covers exactly the two identifiers that the match test can accept. -/
theorem signalIsOnWhenAMemberMatches : Obligations.SignalIsOnWhenAMemberMatches := by
  intro s i present
  refine ⟨fun k => ?_, s.signalOn i, exec_signalIsOn present, State.signalOn_eq_true, State.signalOn_iff_matches⟩
  simp only [exec_matchesId present, ← matchesOf_eq_true, Bool.decide_eq_true]

/-! ### Deassertion -/

/-- Removing an identifier that is not a member changes nothing. -/
theorem eraseId_of_not_mem {k : SignalId} {set : List SignalId} (absent : k ∉ set) : eraseId k set = set :=
  List.filter_eq_self.mpr fun _ member => decide_eq_true (ne_of_mem_of_not_mem member absent)

/-- Settles O39: a deassertion is one update of the set. -/
theorem deassertionOnlyRemoves : Obligations.DeassertionOnlyRemoves := by
  intro s id
  refine ⟨{ s with asserted := eraseId (sigIdOfWord id) s.asserted }, rfl, rfl, fun k => mem_eraseId _ k _, fun absent => ?_⟩
  rw [eraseId_of_not_mem absent]

/-! ### The scan -/

/-- `s` with identifier `k` inserted, the state an assertion scans (43_crossbar R210). -/
def State.assertId (s : State) (k : SignalId) : State := { s with asserted := insertId k s.asserted }

theorem State.mem_assertId (s : State) (k x : SignalId) : x ∈ (s.assertId k).asserted ↔ x = k ∨ x ∈ s.asserted :=
  mem_insertId k x s.asserted

theorem exec_sig_assert (id : Word) (s : State) :
    exec (.sig id true) s =
      forEach (deliver s.nest (sigIdOfWord id)) (List.range s.numChannels) (s.assertId (sigIdOfWord id)) := rfl

/-- Whether a channel pulls depends on the parameters and on the channel (41_pull_scheduler R151). -/
theorem State.pulls_congr {s t : State} {i : Nat} (params : t.params = s.params) (chan : t.chan i = s.chan i) :
    t.pulls i = s.pulls i := by
  rw [State.pulls, State.pulls, State.boundClass, State.boundClass, params, chan]

/-- Channel `c` after the turn of a scan that arms it if it passes the test and otherwise skips it. -/
def armedBy (k : SignalId) (c : Channel) : Channel := { c with pullArmed := c.pullArmed || startable c k }

section
variable {nest : Nest} {k : SignalId} {i : Nat} {s : State}

theorem deliver_of_startable (start : startable (s.chan i) k = true) : deliver nest k i s = attemptStart nest i s :=
  if_pos start

theorem deliver_of_not_startable (skip : startable (s.chan i) k = false) : deliver nest k i s = .next s :=
  if_neg (ne_true_of_eq_false skip)

/-- The turn of another channel leaves channel `j` as it is. -/
theorem State.SameChannel.deliver {j : Nat} (other : j ≠ i) (N : NestRel (State.SameChannel j) nest) (s t : State)
    (run : deliver nest k i s = .next t) : s.SameChannel j t := by
  unfold Machine.deliver at run
  split at run
  · exact .attemptStart other N s t run
  · cases run; exact .refl s

/-- A channel that is pull-classified if it starts at all is armed if it does, and only that (41_pull_scheduler R152). -/
theorem deliver_of_pulls (present : i < s.numChannels) (pull : startable (s.chan i) k = true → s.pulls i = true) :
    ∃ t, deliver nest k i s = .next t ∧ ChannelBecomes s t i (armedBy k (s.chan i)) := by
  cases start : startable (s.chan i) k with
  | false =>
    have same : armedBy k (s.chan i) = s.chan i := by rw [armedBy, start, Bool.or_false]
    exact ⟨s, deliver_of_not_startable start, .refl s, same.symm, fun _ _ => rfl⟩
  | true =>
    rw [armedBy, start, Bool.or_true]
    exact ⟨_, (deliver_of_startable start).trans (attemptStart_of_pulls (pull start)), s.updateChan_channelBecomes _ present⟩

/-- Where every channel that passes the scan's test is pull-classified, the scan arms them and does nothing else: each turn leaves
the test and the class of the channels after it as they are. -/
theorem scan_arms (pull : ∀ i, i < s.numChannels → startable (s.chan i) k = true → s.pulls i = true) :
    ∃ t, forEach (deliver nest k) (List.range s.numChannels) s = .next t ∧ SameButChannels s t ∧
      ∀ i, i < s.numChannels → t.chan i = armedBy k (s.chan i) := by
  have turn (i : Nat) (scanned : i ∈ List.range s.numChannels) (v : State) (same : SameButChannels s v)
      (chan : v.chan i = s.chan i) : ∃ u, deliver nest k i v = .next u ∧ ChannelBecomes v u i (armedBy k (s.chan i)) := by
    have present : i < s.numChannels := List.mem_range.mp scanned
    rw [← chan]
    refine deliver_of_pulls (same.2.symm ▸ present) fun start => ?_
    rw [State.pulls_congr same.params chan]
    exact pull i present (chan ▸ start)
  obtain ⟨t, run, same, chan⟩ := forEach_channelsBecome List.nodup_range turn (.refl s) fun _ _ => rfl
  exact ⟨t, run, same, fun i present => by rw [chan i, if_pos (List.mem_range.mpr present)]⟩

/-- The scan skips the channels that fail its test; where channel `i` alone passes, the scan is its start attempt, which leaves
the others failing. -/
theorem scan_eq_attemptStart (N : ∀ j, NestRel (State.SameChannel j) nest) {is : List Nat} (distinct : is.Nodup)
    (mem : i ∈ is) (start : startable (s.chan i) k = true) (others : ∀ j ∈ is, j ≠ i → startable (s.chan j) k = false) :
    forEach (deliver nest k) is s = attemptStart nest i s := by
  rw [← deliver_of_startable start]
  refine forEach_eq_single distinct mem (fun j scanned other => deliver_of_not_startable (others j scanned other))
    fun t turn j scanned other => deliver_of_not_startable ?_
  have kept : t.chan j = s.chan j := State.SameChannel.deliver other (N j) s t turn
  rw [kept, others j scanned other]

/-- A channel that fails the scan's test fails it until the end, and the turns of the others leave it as it is. -/
theorem scan_keeps_not_startable (N : NestRel (State.SameChannel i) nest) (skip : startable (s.chan i) k = false)
    (is : List Nat) {t : State} (run : forEach (deliver nest k) is s = .next t) : t.chan i = s.chan i := by
  refine forEach_rel (R := fun u v => startable (u.chan i) k = false → v.chan i = u.chan i) (fun _ _ => rfl)
    (fun u v w first second fails => ?_) (fun j u v turn fails => ?_) is s t run skip
  · have kept := first fails
    rw [second (kept ▸ fails), kept]
  · by_cases here : j = i
    · subst here
      rw [deliver_of_not_startable fails] at turn
      cases turn
      rfl
    · exact State.SameChannel.deliver (Ne.symm here) N u v turn

end

/-- With no nested operation the scan of one passing channel is a start attempt of it on the state with the identifier. -/
theorem exec_sig_of_one_startable {s : State} {id : Word} {i : Nat} (quiet : s.quiet) (present : i < s.numChannels)
    (start : startable (s.chan i) (sigIdOfWord id) = true)
    (others : ∀ j, j < s.numChannels → j ≠ i → startable (s.chan j) (sigIdOfWord id) = false) :
    exec (.sig id true) s = exec (.attemptStart i) (s.assertId (sigIdOfWord id)) := by
  rw [exec_sig_assert, exec_attemptStart (s := s.assertId _) present]
  exact scan_eq_attemptStart (fun _ => quiet.nestRel _) List.nodup_range (List.mem_range.mpr present) start
    fun j scanned => others j (List.mem_range.mp scanned)

/-- Settles O40: the scan arms the channels that pass its test, on the state with the identifier. -/
theorem assertionArmsMatchingPullChannels : Obligations.AssertionArmsMatchingPullChannels := by
  intro s id pull
  obtain ⟨t, run, ⟨same, long⟩, chan⟩ := scan_arms (nest := s.nest) (s := s.assertId (sigIdOfWord id)) pull
  have asserted : t.asserted = (s.assertId (sigIdOfWord id)).asserted := by rw [same]
  refine ⟨t, run, ?_, long, fun k => ?_, chan⟩
  · rw [asserted]; exact same
  · rw [asserted]; exact s.mem_assertId _ k

/-- Settles O41: the scan is a row for each channel in turn; where one channel passes, its class decides what the row is. -/
theorem assertionServesChannelsInTurn : Obligations.AssertionServesChannelsInTurn := by
  intro s id
  refine ⟨s.assertId (sigIdOfWord id), rfl, fun k => s.mem_assertId _ k, ?_, fun i present quiet single => ?_⟩
  · refine (exec_sig_assert id s).trans (forEach_eq_inTurn (.deliver _)
      (State.Kept.engineLifts.deliver (State.Kept.lifts.nested _) _) (fun i scanned t long => ?_) rfl (.of_eq rfl))
    have present : i < t.numChannels := long ▸ List.mem_range.mp scanned
    rw [exec_attemptStart present]
    rfl
  · have others (k : Nat) (hk : k < s.numChannels) (other : k ≠ i) : startable (s.chan k) (sigIdOfWord id) = false :=
      Bool.eq_false_iff.mpr (other ∘ (single k hk).mp)
    rw [exec_sig_of_one_startable quiet present ((single i present).mpr rfl) others]
    exact (attemptStartArmsOrActivates (s.assertId (sigIdOfWord id)) i present).2

/-- An enabled, not request-disabled channel that ignores single requests is started by its plain identifier only. -/
theorem startable_of_ignoring {c : Channel} {id : Word} (ignores : c.desc.ignoreSingleRequests = true)
    (enabled : c.enabled = true) (requested : c.requestDisable = false) (source : c.sourceSelector = id.extractLsb' 4 6)
    (signal : c.signalSelector = id.extractLsb' 0 4) : startable c (sigIdOfWord id) = !id.getLsbD 12 := by
  simp [startable, matchesOf, sigIdOfWord, ignores, enabled, requested, source, signal]

/-- Settles O42: the single flag decides whether the channel passes the scan's test. -/
theorem singleRequestsAreSuppressed : Obligations.SingleRequestsAreSuppressed := by
  intro s id i present quiet ignores enabled requested source signal
  have test : startable (s.chan i) (sigIdOfWord id) = !id.getLsbD 12 :=
    startable_of_ignoring ignores enabled requested source signal
  refine ⟨fun flag t run => ?_, fun others => ⟨s.assertId (sigIdOfWord id), rfl, fun k => s.mem_assertId _ k, ?_⟩⟩
  · rw [exec_sig_assert] at run
    exact scan_keeps_not_startable (s := s.assertId _) (quiet.nestRel _) (test.trans (by rw [flag]; rfl)) _ run
  · cases flag : id.getLsbD 12 with
    | true =>
      have skip : startable (s.chan i) (sigIdOfWord id) = false := by rw [test, flag]; rfl
      refine forEach_skips fun k scanned => deliver_of_not_startable ?_
      by_cases here : k = i
      · exact here ▸ skip
      · exact others k (List.mem_range.mp scanned) here
    | false => exact exec_sig_of_one_startable quiet present (by rw [test, flag]; rfl) others

end Sys2Proof.Machine
end

section
/-! PROOFS. Controller-wide registers without a side effect: the words they read (44_register_ops R233 to R244) and the flag a
write stores in every channel (R234 to R238). -/

namespace Sys2Proof.Machine

/-! ### The word of a flag -/

/-- The bits of a bank word inside the register, one per channel (30_encoding R113). -/
theorem State.getLsbD_bankWord_of_lt (s : State) (f : Channel → Bool) {i : Nat} (inside : i < 32) :
    (s.bankWord f).getLsbD i = (decide (i < s.numChannels) && f (s.chan i)) := by
  rw [s.getLsbD_bankWord, decide_eq_true inside, Bool.true_and]

/-- A flag that no channel has reads as 0. -/
theorem State.bankWord_eq_zero {s : State} {f : Channel → Bool} (clear : ∀ i, i < s.numChannels → f (s.chan i) = false) :
    s.bankWord f = 0 := by
  apply BitVec.eq_of_getLsbD_eq
  intro i inside
  rw [s.getLsbD_bankWord_of_lt f inside, BitVec.ofNat_eq_ofNat, BitVec.getLsbD_zero]
  by_cases present : i < s.numChannels
  · rw [clear i present, Bool.and_false]
  · rw [decide_eq_false present, Bool.false_and]

/-- Settles O18: the six flag registers read the words of their flags, and the write-only ones read 0. -/
theorem bankReadsReturnChannelFlags : Obligations.BankReadsReturnChannelFlags := fun s =>
  ⟨s.readReg .enable, s.readReg .status, s.readReg .done, s.readReg .intflag, s.readReg .inten, s.readReg .reqdisable,
    fun _ inside => ⟨s.getLsbD_bankWord_of_lt _ inside, s.getLsbD_bankWord_of_lt _ inside, s.getLsbD_bankWord_of_lt _ inside,
      s.getLsbD_bankWord_of_lt _ inside, s.getLsbD_bankWord_of_lt _ inside, s.getLsbD_bankWord_of_lt _ inside⟩,
    rfl, rfl, rfl, rfl, rfl, rfl, rfl, rfl, rfl⟩

/-! ### Stores in every channel -/

/-- An update of every channel touches nothing else. -/
theorem State.mapChan_sameButChannels (s : State) (f : Nat → Channel → Channel) : SameButChannels s (s.mapChan f) :=
  ⟨rfl, s.numChannels_mapChan f⟩

/-- Settles O19: the write is an update of every channel, which clears the flag where the bit is 1. -/
theorem disableWriteClearsEnabled : Obligations.DisableWriteClearsEnabled := by
  refine fun s v => ⟨rfl, s.writeDisable v, rfl, s.mapChan_sameButChannels _, fun i present => ?_⟩
  rw [State.writeDisable, s.chan_mapChan _ i present]
  cases v.getLsbD i <;> rfl

/-- Settles O20: the write is no operation on the state; a good state has no channel with its guard set. -/
theorem statusIsReadOnly : Obligations.StatusIsReadOnly := fun s _ =>
  ⟨rfl, s.readReg .status, rfl, fun _ inside => s.getLsbD_bankWord_of_lt _ inside, fun good =>
    State.bankWord_eq_zero fun i present =>
      have ⟨_, _, unguarded⟩ := good.channels i present
      unguarded⟩

/-- Settles O21: each write is an update of every channel, and the outputs are functions of them (60_exceptions R286). -/
theorem doneAndIntflagWritesStoreEveryBit : Obligations.DoneAndIntflagWritesStoreEveryBit := by
  refine fun s v => ⟨⟨s.writeDone v, rfl, s.mapChan_sameButChannels _, fun i present => ?_⟩,
    ⟨s.writeIntflag v, rfl, s.mapChan_sameButChannels _, fun i present => ?_⟩⟩
  · have stored : (s.writeDone v).chan i = { s.chan i with done := v.getLsbD i } := s.chan_mapChan _ i present
    exact ⟨stored, by rw [State.irqCh, stored]; rfl⟩
  · have stored : (s.writeIntflag v).chan i = { s.chan i with doneInterrupt := v.getLsbD i } := s.chan_mapChan _ i present
    exact ⟨stored, by rw [State.irqCh, stored]; rfl⟩

/-- Settles O22: the write is an update of every channel, and the read is the word of the flag. -/
theorem intenWriteStoresEveryBit : Obligations.IntenWriteStoresEveryBit := by
  refine fun s v => ⟨⟨s.readReg .inten, rfl, fun _ inside => s.getLsbD_bankWord_of_lt _ inside⟩,
    s.writeInten v, rfl, s.mapChan_sameButChannels _, fun i present => ?_⟩
  have stored : (s.writeInten v).chan i = { s.chan i with doneInterruptEnable := v.getLsbD i } := s.chan_mapChan _ i present
  exact ⟨stored, by rw [State.irqCh, stored]; rfl⟩

end Sys2Proof.Machine
end

section
/-! PROOFS. Controller-wide writes that attempt starts or link-loads (44_register_ops R232, R240, R242, R244): the channels they
serve, ascending, and what serving them leaves where no copy is made. -/

namespace Sys2Proof.Machine

/-! ### Serving channels in turn -/

/-- A loop whose every turn takes what holds after the channels served so far to what holds after one more. -/
theorem forEach_serves {act : Nat → State → Out} {P : List Nat → State → Prop} {is : List Nat} (distinct : is.Nodup)
    (turn : ∀ served, ∀ i ∈ is, i ∉ served → ∀ t, P served t → ∃ u, act i t = .next u ∧ P (served ++ [i]) u)
    {served : List Nat} (fresh : ∀ i ∈ is, i ∉ served) {t : State} (start : P served t) :
    ∃ u, forEach act is t = .next u ∧ P (served ++ is) u := by
  induction is generalizing served t with
  | nil => exact ⟨t, rfl, by rwa [List.append_nil]⟩
  | cons i rest ih =>
    obtain ⟨once, distinct⟩ := List.nodup_cons.mp distinct
    obtain ⟨v, first, mid⟩ := turn served i List.mem_cons_self (fresh i List.mem_cons_self) t start
    have later (k : Nat) (mem : k ∈ rest) : k ∉ served ++ [i] := by
      simpa using ⟨fresh k (List.mem_cons_of_mem i mem), ne_of_mem_of_not_mem mem once⟩
    obtain ⟨u, run, ends⟩ := ih distinct (fun done k mem => turn done k (List.mem_cons_of_mem i mem)) later mid
    exact ⟨u, by rw [forEach_cons, first, andThen_next, run], by simpa using ends⟩

/-- A loop over one channel, found by a test on a list, is that channel's turn. -/
theorem forEach_of_only {act : Nat → State → Out} {is : List Nat} {s : State} {i : Nat} (distinct : is.Nodup)
    (mem : i ∈ is) (only : ∀ k ∈ is, k = i) : forEach act is s = act i s :=
  forEach_eq_single distinct mem (fun k here other => absurd (only k here) other)
    fun _ _ k here other => absurd (only k here) other

theorem State.mem_bitsOf {s : State} {v : Word} {i : Nat} : i ∈ s.bitsOf v ↔ i < s.numChannels ∧ v.getLsbD i = true := by
  simp [State.bitsOf]

theorem State.nodup_bitsOf (s : State) (v : Word) : (s.bitsOf v).Nodup := List.nodup_range.filter _

/-- Where the written word has the one 1 bit `i`, the channels of its 1 bits are served by the one turn of `i`. -/
theorem forEach_bitsOf_of_only {act : Nat → State → Out} {s : State} {v : Word} {i : Nat} (present : i < s.numChannels)
    (single : ∀ k, k < s.numChannels → (v.getLsbD k = true ↔ k = i)) : forEach act (s.bitsOf v) s = act i s :=
  forEach_of_only (s.nodup_bitsOf v) (State.mem_bitsOf.mpr ⟨present, (single i present).mpr rfl⟩) fun k mem =>
    have ⟨hk, bit⟩ := State.mem_bitsOf.mp mem
    (single k hk).mp bit

/-! ### Start attempts that arm -/

/-- `t` is `s` after start attempts of those channels of `served` that pass `test`, where these are armed and nothing else
happens (41_pull_scheduler R152). -/
structure State.Armed (s : State) (test : Nat → Bool) (served : List Nat) (t : State) : Prop where
  same : SameButChannels s t
  chan : ∀ k, t.chan k = if k ∈ served ∧ test k = true then { s.chan k with pullArmed := true } else s.chan k

theorem State.Armed.nil (s : State) (test : Nat → Bool) : s.Armed test [] s := ⟨.refl s, fun _ => by simp⟩

/-- A channel that has not had its turn is as it was. -/
theorem State.Armed.untouched {s t : State} {test : Nat → Bool} {served : List Nat} {i : Nat} (before : s.Armed test served t)
    (new : i ∉ served) : t.chan i = s.chan i :=
  (before.chan i).trans (if_neg fun inside => new inside.1)

/-- One more channel, which fails the test. -/
theorem State.Armed.skip {s t : State} {test : Nat → Bool} {served : List Nat} {i : Nat} (before : s.Armed test served t)
    (new : i ∉ served) (fails : test i = false) : s.Armed test (served ++ [i]) t := by
  refine ⟨before.same, fun k => ?_⟩
  by_cases now : k = i
  · rw [now, before.untouched new, if_neg (by simp [fails])]
  · rw [before.chan k]
    simp only [List.mem_append, List.mem_singleton, now, or_false]

/-- One more channel, which passes the test and is pull-classified. -/
theorem State.Armed.next {s t : State} {test : Nat → Bool} {served : List Nat} {i : Nat} {nest : Nest}
    (before : s.Armed test served t) (new : i ∉ served) (present : i < s.numChannels) (passes : test i = true)
    (pull : s.pulls i = true) : ∃ u, attemptStart nest i t = .next u ∧ s.Armed test (served ++ [i]) u := by
  have here := before.untouched new
  have pulls : t.pulls i = true := (State.pulls_congr before.same.params here).trans pull
  obtain ⟨armed, self, others⟩ := t.updateChan_channelBecomes (fun c => { c with pullArmed := true })
    (before.same.2.symm ▸ present)
  refine ⟨t.armPull i true, attemptStart_of_pulls pulls, before.same.trans armed, fun k => ?_⟩
  by_cases now : k = i
  · rw [now, if_pos ⟨by simp, passes⟩, ← here]
    exact self
  · rw [State.armPull, others k now, before.chan k]
    simp only [List.mem_append, List.mem_singleton, now, or_false]

/-- Start attempts of the channels that pass a test, in turn: where these are pull-classified and the test of a channel looks at
no other channel, exactly they are armed. -/
theorem forEach_arms {nest : Nest} {test : State → Nat → Bool} {s : State} {is : List Nat} (distinct : is.Nodup)
    (present : ∀ i ∈ is, i < s.numChannels)
    (own : ∀ i t, SameButChannels s t → t.chan i = s.chan i → test t i = test s i)
    (pull : ∀ i ∈ is, test s i = true → s.pulls i = true) :
    ∃ t, forEach (fun i t => if test t i then attemptStart nest i t else .next t) is s = .next t ∧ s.Armed (test s) is t := by
  refine forEach_serves (P := s.Armed (test s)) distinct (fun served i mem new t before => ?_) (fun _ _ => List.not_mem_nil)
    (.nil s _)
  rw [own i t before.same (before.untouched new)]
  cases passes : test s i with
  | false => exact ⟨t, rfl, before.skip new passes⟩
  | true => exact before.next new (present i mem) passes (pull i mem passes)

/-! ### `ENABLE` -/

theorem State.mem_newlyEnabled {s : State} {v : Word} {i : Nat} : i ∈ s.newlyEnabled v ↔
    i < s.numChannels ∧ v.getLsbD i = true ∧ (s.chan i).enabled = false := by
  simp [State.newlyEnabled, selected, State.channels, and_comm]

theorem State.nodup_newlyEnabled (s : State) (v : Word) : (s.newlyEnabled v).Nodup := (s.nodup_bitsOf v).filter _

theorem State.enableStores_sameButChannels (s : State) (v : Word) : SameButChannels s (s.enableStores v) :=
  s.mapChan_sameButChannels _

theorem State.chan_enableStores {s : State} {v : Word} {i : Nat} (present : i < s.numChannels) : (s.enableStores v).chan i =
    if v.getLsbD i && !(s.chan i).enabled then { s.chan i with enabled := true, done := false } else s.chan i :=
  s.chan_mapChan _ i present

/-- The stores touch no selector, so each channel stays in its class. -/
theorem State.boundClass_enableStores {s : State} {v : Word} {i : Nat} (present : i < s.numChannels) :
    (s.enableStores v).boundClass i = s.boundClass i := by
  rw [State.boundClass, State.boundClass, State.chan_enableStores present]
  split <;> rfl

/-- Settles O23: the stores, then start attempts that arm. -/
theorem enableArmsPullChannels : Obligations.EnableArmsPullChannels := by
  intro s v pull
  have long : (s.enableStores v).numChannels = s.numChannels := s.numChannels_mapChan _
  obtain ⟨t, run, ⟨same, chan⟩⟩ := forEach_arms (nest := s.nest) (s := s.enableStores v) (test := fun _ _ => true)
    (s.nodup_newlyEnabled v)
    (fun i mem => long.symm ▸ (State.mem_newlyEnabled.mp mem).1) (fun _ _ _ _ => rfl) fun i mem _ => by
      obtain ⟨present, bit, disabled⟩ := State.mem_newlyEnabled.mp mem
      rw [State.pulls, State.boundClass_enableStores present]
      exact pull i present bit disabled
  refine ⟨t, run, (s.enableStores_sameButChannels v).trans same, fun i present => ?_⟩
  rw [chan i, State.chan_enableStores present]
  simp only [State.mem_newlyEnabled, present, true_and, and_true, Bool.and_eq_true, Bool.not_eq_true']
  split <;> rfl

/-- Settles O24: the channels served are those the stores enable; of one channel, its class decides what the attempt is. -/
theorem enableServesNewChannelsInTurn : Obligations.EnableServesNewChannelsInTurn := by
  intro s v
  have long : (s.enableStores v).numChannels = s.numChannels := s.numChannels_mapChan _
  refine ⟨s.enableStores v, s.enableStores_sameButChannels v, fun i => State.chan_enableStores, ?_,
    fun i present bit disabled others => ?_⟩
  · refine forEach_eq_inTurn (act := attemptStart) Composed.attemptStart
      (fun i t u run => State.Kept.engineLifts.attemptStart (State.Kept.lifts.nested _) i t u run)
      (fun i mem t same => (exec_attemptStart ?_).symm) long (.of_eq rfl)
    exact same ▸ (State.mem_newlyEnabled.mp mem).1
  · have alone : exec (.wrEnable v) s = exec (.attemptStart i) (s.enableStores v) := by
      rw [exec_attemptStart (long.symm ▸ present)]
      refine forEach_of_only (s.nodup_newlyEnabled v) (State.mem_newlyEnabled.mpr ⟨present, bit, disabled⟩) fun k mem => ?_
      obtain ⟨hk, bitK, disabledK⟩ := State.mem_newlyEnabled.mp mem
      by_contra other
      exact Bool.false_ne_true (disabledK.symm.trans (others k hk other bitK))
    have here : (s.enableStores v).chan i = { s.chan i with enabled := true, done := false } := by
      rw [State.chan_enableStores present, if_pos (by simp [bit, disabled])]
    have becomes : ChannelBecomes s (s.enableStores v) i { s.chan i with enabled := true, done := false } := by
      refine ⟨s.enableStores_sameButChannels v, here, fun k other => ?_⟩
      by_cases hk : k < s.numChannels
      · rw [State.chan_enableStores hk, if_neg]
        simpa using others k hk other
      · rw [State.chan_absent _ k (by omega), s.chan_absent k (by omega)]
    obtain ⟨-, edge, unknown⟩ := attemptStartArmsOrActivates (s.enableStores v) i (long.symm ▸ present)
    rw [alone, ← State.boundClass_enableStores (v := v) present]
    refine ⟨becomes, edge, fun noClass => (unknown noClass).trans ?_⟩
    rw [here]

/-! ### `FORCE` -/

theorem exec_wrForce (v : Word) (s : State) : exec (.wrForce v) s = forEach (forceOne s.nest) (s.bitsOf v) s := rfl

theorem forceOne_of_enabled {nest : Nest} {i : Nat} {s : State} (enabled : (s.chan i).enabled = true) :
    forceOne nest i s = attemptStart nest i s := if_pos enabled

theorem forceOne_of_disabled {nest : Nest} {i : Nat} {s : State} (disabled : (s.chan i).enabled = false) :
    forceOne nest i s = .next (s.diag (.forceOnDisabled i)) := if_neg (ne_true_of_eq_false disabled)

/-- `t` is `s` after force requests of the channels `served`, where the enabled ones are armed: the others are reported, in the
order they are served (44_register_ops R240). -/
structure State.Forced (s : State) (served : List Nat) (t : State) : Prop where
  frame : t = { s with
    ch := t.ch
    diagLog := s.diagLog ++ (served.filter fun i => !(s.chan i).enabled).map Diagnostic.forceOnDisabled }
  long : t.numChannels = s.numChannels
  chan : ∀ k, t.chan k = if k ∈ served ∧ (s.chan k).enabled = true then { s.chan k with pullArmed := true } else s.chan k

/-- One more force request, of a channel that is pull-classified if it is enabled. -/
theorem State.Forced.next {s t : State} {served : List Nat} {i : Nat} {nest : Nest} (before : s.Forced served t)
    (new : i ∉ served) (present : i < s.numChannels) (pull : (s.chan i).enabled = true → s.pulls i = true) :
    ∃ u, forceOne nest i t = .next u ∧ s.Forced (served ++ [i]) u := by
  obtain ⟨frame, long, chan⟩ := before
  have here : t.chan i = s.chan i := (chan i).trans (if_neg fun served => new served.1)
  cases enabled : (s.chan i).enabled with
  | false =>
    refine ⟨_, forceOne_of_disabled (here ▸ enabled), ?_, long, fun k => ?_⟩
    · rw [List.filter_append, List.filter_cons_of_pos (by simp [enabled]), frame]
      simp [State.diag]
    · by_cases now : k = i
      · rw [now, if_neg (by simp [enabled])]
        exact here
      · refine (chan k).trans ?_
        simp only [List.mem_append, List.mem_singleton, now, or_false]
  | true =>
    have params : t.params = s.params := by rw [frame]
    have pulls : t.pulls i = true := (State.pulls_congr params here).trans (pull enabled)
    obtain ⟨-, self, others⟩ := t.updateChan_channelBecomes (fun c => { c with pullArmed := true }) (long.symm ▸ present)
    refine ⟨t.armPull i true, (forceOne_of_enabled (here ▸ enabled)).trans (attemptStart_of_pulls pulls), ?_,
      (t.numChannels_updateChan i _).trans long, fun k => ?_⟩
    · rw [List.filter_append, List.filter_cons_of_neg (by simp [enabled]), frame]
      simp [State.armPull, State.updateChan]
    · by_cases now : k = i
      · rw [now, if_pos ⟨by simp, enabled⟩, ← here]
        exact self
      · rw [State.armPull, others k now, chan k]
        simp only [List.mem_append, List.mem_singleton, now, or_false]

/-- Settles O25: the force requests of the selected channels, one after the other. -/
theorem forceArmsOrReports : Obligations.ForceArmsOrReports := by
  intro s v pull
  obtain ⟨t, run, frame, long, chan⟩ := forEach_serves (act := forceOne s.nest) (P := s.Forced) (s.nodup_bitsOf v)
    (fun served i mem new t before => by
      obtain ⟨present, bit⟩ := State.mem_bitsOf.mp mem
      exact before.next new present (pull i present bit))
    (fun _ _ => List.not_mem_nil) ⟨by simp, rfl, fun _ => by simp⟩
  refine ⟨t, run, frame.trans ?_, long, fun i present => ?_⟩
  · simp [State.bitsOf, List.filter_filter, Bool.and_comm]
  · rw [chan i]
    simp [State.mem_bitsOf, present]

/-- Settles O26: each turn is a row of its own; one selected channel is the one turn. -/
theorem forceServesChannelsInTurn : Obligations.ForceServesChannelsInTurn := by
  intro s v
  refine ⟨?_, fun i present single enabled => ?_⟩
  · refine (exec_wrForce v s).trans (forEach_eq_inTurn (act := forceOne)
      (fun i t => .ite (.attemptStart i t) (.update (.diag t _)))
      (State.Kept.engineLifts.forceOne (State.Kept.lifts.nested _)) (fun i mem t same => ?_) rfl (.of_eq rfl))
    rw [exec_attemptStart (same ▸ (State.mem_bitsOf.mp mem).1)]
    rfl
  · rw [exec_wrForce, exec_attemptStart present, ← forceOne_of_enabled enabled]
    exact forEach_bitsOf_of_only present single

/-! ### `LINKLOAD` -/

theorem exec_wrLinkload (v : Word) (s : State) : exec (.wrLinkload v) s = forEach (linkLoadOp s.nest) (s.bitsOf v) s := rfl

/-- Channel `c` of `s` after a chain-load (42_channel_engine R190). -/
def State.loaded (s : State) (c : Channel) : Channel :=
  { c with desc := decodeDescriptor (s.readBytes (linkTarget c) 32), descLoadAddr := linkTarget c }

/-- `t` is `s` after chain-loads of the channels `served`, in that order. -/
structure State.ChainLoaded (s : State) (served : List Nat) (t : State) : Prop where
  frame : t = { s with
    ch := t.ch, busLog := s.busLog ++ served.map fun i => BusCall.memRead (linkTarget (s.chan i)) 32 }
  long : t.numChannels = s.numChannels
  chan : ∀ k, t.chan k = if k ∈ served then s.loaded (s.chan k) else s.chan k

/-- One more link-load, of a request-disabled channel: it loads and starts nothing (42_channel_engine R191). -/
theorem State.ChainLoaded.next {s t : State} {served : List Nat} {i : Nat} {nest : Nest} (before : s.ChainLoaded served t)
    (new : i ∉ served) (present : i < s.numChannels) (disabled : (s.chan i).requestDisable = true) :
    ∃ u, linkLoadOp nest i t = .next u ∧ s.ChainLoaded (served ++ [i]) u := by
  obtain ⟨frame, long, chan⟩ := before
  have here : t.chan i = s.chan i := (chan i).trans (if_neg new)
  have mem : t.mem = s.mem := by rw [frame]
  have self : (t.chainLoad i).chan i = s.loaded (s.chan i) := by
    rw [State.chan_chainLoad_self (long.symm ▸ present), here, State.readBytes_of_mem t s mem]
    rfl
  have stays : ¬ (t.chainLoad i).startsAfterLoad i = true := by
    simp [State.startsAfterLoad_eq_true, self, State.loaded, disabled]
  refine ⟨t.chainLoad i, if_neg stays, ?_, (t.numChannels_chainLoad i).trans long, fun k => ?_⟩
  · have call : (t.chainLoad i).busLog =
        s.busLog ++ (served ++ [i]).map fun i => BusCall.memRead (linkTarget (s.chan i)) 32 := by
      rw [State.chainLoad_busLog, here, frame]
      simp
    have update : t.chainLoad i = { t with ch := (t.chainLoad i).ch, busLog := (t.chainLoad i).busLog } := rfl
    rw [← call]
    exact update.trans (by rw [frame])
  · by_cases now : k = i
    · rw [now, if_pos (by simp), self]
    · rw [t.chan_chainLoad_other now, chan k]
      simp only [List.mem_append, List.mem_singleton, now, or_false]

/-- Settles O27: each turn is a row of its own; one selected channel is the one turn; request-disabled channels only load. -/
theorem linkloadServesChannelsInTurn : Obligations.LinkloadServesChannelsInTurn := by
  intro s v
  refine ⟨?_, fun i present single => ?_, fun disabled => ?_⟩
  · refine (exec_wrLinkload v s).trans (forEach_eq_inTurn (act := linkLoadOp) Composed.linkLoadOp
      (State.Kept.engineLifts.linkLoadOp (State.Kept.lifts.nested _))
      (fun i mem t same => (exec_linkLoadOp ?_).symm) rfl (.of_eq rfl))
    exact same ▸ (State.mem_bitsOf.mp mem).1
  · rw [exec_wrLinkload, exec_linkLoadOp present]
    exact forEach_bitsOf_of_only present single
  · obtain ⟨t, run, frame, long, chan⟩ := forEach_serves (act := linkLoadOp s.nest) (P := s.ChainLoaded) (s.nodup_bitsOf v)
      (fun served i mem new t before => by
        obtain ⟨present, bit⟩ := State.mem_bitsOf.mp mem
        exact before.next new present (disabled i present bit))
      (fun _ _ => List.not_mem_nil) ⟨by simp, rfl, fun _ => by simp⟩
    refine ⟨t, run, frame, long, fun i present => ?_⟩
    rw [chan i]
    simp [State.mem_bitsOf, present, State.loaded]

/-! ### `REQDISABLE` -/

theorem exec_wrReqdisable (v : Word) (s : State) :
    exec (.wrReqdisable v) s = forEach (catchUp s.nest) (s.released v) (s.reqdisableStores v) := rfl

theorem State.mem_released {s : State} {v : Word} {i : Nat} : i ∈ s.released v ↔
    i < s.numChannels ∧ (s.chan i).requestDisable = true ∧ v.getLsbD i = false := by
  simp [State.released, State.channels]

theorem State.nodup_released (s : State) (v : Word) : (s.released v).Nodup := List.nodup_range.filter _

theorem State.reqdisableStores_sameButChannels (s : State) (v : Word) : SameButChannels s (s.reqdisableStores v) :=
  s.mapChan_sameButChannels _

theorem State.chan_reqdisableStores {s : State} {v : Word} {i : Nat} (present : i < s.numChannels) :
    (s.reqdisableStores v).chan i = { s.chan i with requestDisable := v.getLsbD i } :=
  s.chan_mapChan _ i present

/-- The stores touch neither a selector nor a descriptor, so every signal is on as before. -/
theorem State.signalOn_reqdisableStores {s : State} {v : Word} {i : Nat} (present : i < s.numChannels) :
    (s.reqdisableStores v).signalOn i = s.signalOn i := by
  have stored := State.chan_reqdisableStores (v := v) present
  exact State.signalOn_congr rfl (by rw [stored]) (by rw [stored]) (by rw [stored])

/-- Where the released channels with a signal are pull-classified, the write stores the flags and arms exactly those. -/
theorem exec_wrReqdisable_arms {s : State} {v : Word} (pull : ∀ i, i < s.numChannels → (s.chan i).requestDisable = true →
      v.getLsbD i = false → s.signalOn i = true → s.pulls i = true) :
    ∃ t, exec (.wrReqdisable v) s = .next t ∧ SameButChannels s t ∧ ∀ i, i < s.numChannels → t.chan i =
      { s.chan i with
        requestDisable := v.getLsbD i
        pullArmed := (s.chan i).pullArmed || ((s.chan i).requestDisable && !v.getLsbD i && s.signalOn i) } := by
  have long : (s.reqdisableStores v).numChannels = s.numChannels := s.numChannels_mapChan _
  obtain ⟨t, run, ⟨same, chan⟩⟩ := forEach_arms (nest := s.nest) (s := s.reqdisableStores v) (test := State.signalOn)
    (s.nodup_released v) (fun i mem => long.symm ▸ (State.mem_released.mp mem).1)
    (fun i t same chan => State.signalOn_congr (by rw [same.1]) (by rw [chan]) (by rw [chan]) (by rw [chan]))
    fun i mem on => by
      obtain ⟨present, disabled, bit⟩ := State.mem_released.mp mem
      rw [State.signalOn_reqdisableStores present] at on
      have sameClass : (s.reqdisableStores v).pulls i = s.pulls i := by
        rw [State.pulls, State.pulls, State.boundClass, State.boundClass, State.chan_reqdisableStores present]
        rfl
      exact sameClass.trans (pull i present disabled bit on)
  refine ⟨t, run, (s.reqdisableStores_sameButChannels v).trans same, fun i present => ?_⟩
  rw [chan i, State.chan_reqdisableStores present, State.signalOn_reqdisableStores present]
  simp only [State.mem_released, present, true_and]
  cases (s.chan i).requestDisable <;> cases v.getLsbD i <;> cases s.signalOn i <;> simp

/-- Settles O28: the channels served are those the stores release; of one with its signal on it is its start attempt. -/
theorem reqdisableCatchesUp : Obligations.ReqdisableCatchesUp := by
  intro s v
  have long : (s.reqdisableStores v).numChannels = s.numChannels := s.numChannels_mapChan _
  refine ⟨s.reqdisableStores v, s.reqdisableStores_sameButChannels v, fun i => State.chan_reqdisableStores, ?_,
    fun i present on single => ?_, exec_wrReqdisable_arms⟩
  · refine (exec_wrReqdisable v s).trans (forEach_eq_inTurn (act := catchUp)
      (fun i t => .ite (.attemptStart i t) (.next t)) (fun i t u run => ?_) (fun i mem t same => ?_) long (.of_eq rfl))
    · unfold catchUp at run
      split at run
      · exact State.Kept.engineLifts.attemptStart (State.Kept.lifts.nested _) i t u run
      · cases run; exact .refl t
    · rw [exec_attemptStart (same ▸ (State.mem_released.mp mem).1)]
      rfl
  · have turn : catchUp s.nest i (s.reqdisableStores v) = attemptStart s.nest i (s.reqdisableStores v) :=
      if_pos ((State.signalOn_reqdisableStores present).trans on)
    rw [exec_wrReqdisable, exec_attemptStart (long.symm ▸ present)]
    refine (forEach_of_only (s.nodup_released v) ?_ fun k mem => ?_).trans turn
    · exact State.mem_released.mpr ⟨present, (single i present).mpr rfl⟩
    · obtain ⟨hk, released⟩ := State.mem_released.mp mem
      exact (single k hk).mp released

end Sys2Proof.Machine
end

section
/-! PROOFS. The registers of one channel (44_register_ops R246 to R257): a write is an update of the one channel, and the word
written reads back. -/

namespace Sys2Proof.Machine

/-! ### Rows of a channel that exists -/

section
variable {s : State} {i : Nat} (present : i < s.numChannels)
include present

theorem exec_wrReqsel (source : BitVec 6) (signal : BitVec 4) :
    exec (.wrReqsel i source signal) s = .next (s.writeReqsel i source signal) := withChannel_of_lt _ present
theorem exec_wrConfig (v : Word) : exec (.wrConfig i v) s = .next (s.writeConfig i v) := withChannel_of_lt _ present
theorem exec_wrLoop (v : Word) : exec (.wrLoop i v) s = .next (s.writeLoop i v) := withChannel_of_lt _ present
theorem exec_wrCtrl (v : Word) : exec (.wrCtrl i v) s = writeCtrl s.nest i v s := withChannel_of_lt _ present
theorem exec_wrSrcaddr (v : Word) : exec (.wrSrcaddr i v) s = .next (s.writeSrcaddr i v) := withChannel_of_lt _ present
theorem exec_wrDstaddr (v : Word) : exec (.wrDstaddr i v) s = .next (s.writeDstaddr i v) := withChannel_of_lt _ present
theorem exec_wrLink (v : Word) : exec (.wrLink i v) s = .next (s.writeLink i v) := withChannel_of_lt _ present

theorem exec_rdReqsel : exec (.rdReqsel i) s =
    .next (s.answer (.fields (s.chan i).sourceSelector (s.chan i).signalSelector)) := withChannel_of_lt _ present

/-- The register is one of a channel that exists. -/
theorem State.hasReg_of_channel {r : RegName} (owned : r.channel? = some i) : s.hasReg r = true := by
  rw [State.hasReg, owned]
  exact decide_eq_true present

/-- The row that reads a word register of the channel. -/
theorem exec_readRow_of_channel {r : RegName} (owned : r.channel? = some i) (notReqsel : ∀ k, r ≠ .reqsel k) :
    exec (readRow r) s = .next (s.answer (.word (s.readReg r))) :=
  exec_readRow (State.hasReg_of_channel present owned) notReqsel

end

/-- The channel that became something else is there still. -/
theorem ChannelBecomes.present {s t : State} {i : Nat} {c : Channel} (h : ChannelBecomes s t i c)
    (present : i < s.numChannels) : i < t.numChannels := by
  obtain ⟨⟨-, long⟩, -, -⟩ := h
  exact long.symm ▸ present

theorem ChannelBecomes.chan {s t : State} {i : Nat} {c : Channel} (h : ChannelBecomes s t i c) : t.chan i = c := by
  obtain ⟨-, here, -⟩ := h
  exact here

/-! ### `REQSEL`, `CONFIG`, `LOOP` and the addresses -/

/-- Settles O29: the write is an update of the one channel. -/
theorem reqselStoresTwoFields : Obligations.ReqselStoresTwoFields := by
  intro s i source signal present
  have becomes : ChannelBecomes s (s.writeReqsel i source signal) i
      { s.chan i with sourceSelector := source, signalSelector := signal } := s.updateChan_channelBecomes _ present
  refine ⟨exec_rdReqsel present, _, exec_wrReqsel present source signal, becomes, ?_⟩
  exact (exec_rdReqsel (becomes.present present)).trans (by rw [becomes.chan])

/-- The read-back of a word register of channel `i` after the channel became `c`. -/
theorem ChannelBecomes.reads {s t : State} {i : Nat} {c : Channel} (h : ChannelBecomes s t i c) (present : i < s.numChannels)
    {r : RegName} (owned : r.channel? = some i) (notReqsel : ∀ k, r ≠ .reqsel k) {v : Word} (word : t.readReg r = v) :
    exec (readRow r) t = .next (t.answer (.word v)) :=
  word ▸ exec_readRow_of_channel (h.present present) owned notReqsel

/-- A plain write to a register of channel `i` other than `REQSEL` and `CTRL` is an update of the channel that stores the word,
and the register reads back. -/
theorem exec_writeRow_word {s : State} {i : Nat} (present : i < s.numChannels) {r : RegName}
    (word : r ∈ [.config i, .loop i, .srcaddr i, .dstaddr i, .link i]) (v : Word) :
    ∃ t, exec (writeRow s.params r v) s = .next t ∧ ChannelBecomes s t i (stored r v i (s.chan i)) ∧ t.readReg r = v := by
  simp only [List.mem_cons, List.not_mem_nil, or_false] at word
  rcases word with rfl | rfl | rfl | rfl | rfl
  · have becomes := s.updateChan_channelBecomes (fun c => { c with config := v }) present
    exact ⟨_, exec_wrConfig present v, becomes, congrArg Channel.config becomes.chan⟩
  · have becomes := s.updateChan_channelBecomes (fun c => { c with loop := v }) present
    exact ⟨_, exec_wrLoop present v, becomes, congrArg Channel.loop becomes.chan⟩
  · have becomes := s.updateChan_channelBecomes (fun c => { c with desc := { c.desc with sourceAddress := v } }) present
    exact ⟨_, exec_wrSrcaddr present v, becomes, congrArg (fun c => c.desc.sourceAddress) becomes.chan⟩
  · have becomes := s.updateChan_channelBecomes (fun c => { c with desc := { c.desc with destinationAddress := v } }) present
    exact ⟨_, exec_wrDstaddr present v, becomes, congrArg (fun c => c.desc.destinationAddress) becomes.chan⟩
  · have becomes : ChannelBecomes s (s.writeLink i v) i { s.chan i with desc := withLinkWord v (s.chan i).desc } :=
      s.updateChan_channelBecomes _ present
    refine ⟨_, exec_wrLink present v, becomes, ?_⟩
    rw [State.readReg, becomes.chan, linkWord_withLinkWord]

/-- Settles O30: both are word registers of the channel. -/
theorem opaqueWordsReadBack : Obligations.OpaqueWordsReadBack := by
  intro s i v present
  obtain ⟨t, write, becomes, back⟩ := exec_writeRow_word present (r := .config i) (by simp) v
  obtain ⟨u, writeLoop, becomesLoop, backLoop⟩ := exec_writeRow_word present (r := .loop i) (by simp) v
  exact ⟨exec_readRow_of_channel present (r := .config i) rfl nofun, exec_readRow_of_channel present (r := .loop i) rfl nofun,
    ⟨t, write, becomes, becomes.reads present (r := .config i) rfl nofun back⟩,
    ⟨u, writeLoop, becomesLoop, becomesLoop.reads present (r := .loop i) rfl nofun backLoop⟩⟩

/-- Settles O31: both are word registers of the channel, and words of the live descriptor. -/
theorem addressRegistersReadBack : Obligations.AddressRegistersReadBack := by
  intro s i v present
  obtain ⟨t, write, becomes, back⟩ := exec_writeRow_word present (r := .srcaddr i) (by simp) v
  obtain ⟨u, writeDst, becomesDst, backDst⟩ := exec_writeRow_word present (r := .dstaddr i) (by simp) v
  exact ⟨exec_readRow_of_channel present (r := .srcaddr i) rfl nofun,
    exec_readRow_of_channel present (r := .dstaddr i) rfl nofun,
    ⟨t, write, becomes, becomes.reads present (r := .srcaddr i) rfl nofun back⟩,
    ⟨u, writeDst, becomesDst, becomesDst.reads present (r := .dstaddr i) rfl nofun backDst⟩⟩

/-! ### `LINK` -/

theorem addrTag_eq_relative (b : Bool) : addrTag b = .relative ↔ b = true := by cases b <;> decide

/-- The places of the link fields in their word (30_encoding R95): where the decoder reads them. -/
theorem linkWord_fields (d : TransferDescriptor) : (linkWord d).getLsbD 0 = decide (d.linkMode = .relative) ∧
    (linkWord d).getLsbD 1 = d.link ∧ (linkWord d).extractLsb' 2 30 = d.linkAddress := by
  have same := withLinkWord_linkWord d d
  have mode : addrTag ((linkWord d).getLsbD 0) = d.linkMode := congrArg TransferDescriptor.linkMode same
  refine ⟨?_, congrArg TransferDescriptor.link same, congrArg TransferDescriptor.linkAddress same⟩
  rw [← mode, Bool.eq_iff_iff, decide_eq_true_iff, addrTag_eq_relative]

/-- Settles O32: `LINK` is a word register of the channel, the word of its three link fields. -/
theorem linkWordReadsBack : Obligations.LinkWordReadsBack := by
  intro s i v present
  obtain ⟨t, write, becomes, back⟩ := exec_writeRow_word present (r := .link i) (by simp) v
  exact ⟨⟨s.readReg (.link i), exec_readRow_of_channel present (r := .link i) rfl nofun, linkWord_fields _⟩,
    t, write, becomes, becomes.reads present (r := .link i) rfl nofun back⟩

/-! ### `CTRL` -/

/-- The fields a `CTRL` write stores are those the decoder reads, by the spec's tables (44_register_ops R251). -/
theorem withWrittenControl_eq_ctrlStored (v : Word) (d : TransferDescriptor) : withWrittenControl v d = ctrlStored v d := by
  simp only [withWrittenControl, withControlWord, ctrlStored, blockTag_eq_table, incTag_eq_table, sizeTag_eq_table]
  rfl

/-- The state a `CTRL` write leaves before it may link-load. -/
theorem State.ctrlStores_channelBecomes {s : State} {i : Nat} (present : i < s.numChannels) (v : Word) :
    ChannelBecomes s (s.ctrlStores i v) i { s.chan i with desc := ctrlStored v (s.chan i).desc } := by
  rw [← withWrittenControl_eq_ctrlStored]
  exact s.updateChan_channelBecomes (fun c => { c with desc := withWrittenControl v c.desc }) present

/-- The `autoRequest` of the stored word decides whether a link-load follows (44_register_ops R252). -/
theorem exec_wrCtrl_eq {s : State} {i : Nat} (present : i < s.numChannels) (v : Word) :
    exec (.wrCtrl i v) s =
      if v.getLsbD 3 then linkLoadOp s.nest i (s.ctrlStores i v) else .next (s.ctrlStores i v) := by
  have auto : ((s.ctrlStores i v).chan i).desc.autoRequest = v.getLsbD 3 := by
    rw [(State.ctrlStores_channelBecomes present v).chan]
    rfl
  rw [exec_wrCtrl present, writeCtrl, auto]

/-- Settles O33: the stores, and a link-load on the state they leave where `autoRequest` is stored. -/
theorem ctrlWriteStoresThenLinkLoads : Obligations.CtrlWriteStoresThenLinkLoads := by
  intro s i v present
  have becomes := State.ctrlStores_channelBecomes present v
  refine ⟨s.ctrlStores i v, becomes, fun clear => ?_, fun set => ?_⟩
  · rw [exec_wrCtrl_eq present, if_neg (ne_true_of_eq_false clear)]
  · rw [exec_wrCtrl_eq present, if_pos set, exec_linkLoadOp (becomes.present present)]
    rfl

/-- Bits 29:4 of `v` beside bits 31, 30, 1 and 0 of `w` (44_register_ops R250, R253). -/
def ctrlMerge (v w : Word) : Word := (v &&& 0x3FFFFFF0) ||| (w &&& 0xC0000003)

theorem getLsbD_writtenMask : ∀ j, j < 32 → (0x3FFFFFF0 : Word).getLsbD j = decide (4 ≤ j ∧ j < 30) := by decide
theorem getLsbD_keptMask : ∀ j, j < 32 → (0xC0000003 : Word).getLsbD j = decide (j < 2 ∨ 30 ≤ j) := by decide

theorem getLsbD_ctrlMerge (v w : Word) {j : Nat} (inside : j < 32) : (ctrlMerge v w).getLsbD j =
    (v.getLsbD j && decide (4 ≤ j ∧ j < 30) || w.getLsbD j && decide (j < 2 ∨ 30 ≤ j)) := by
  rw [ctrlMerge, BitVec.getLsbD_or, BitVec.getLsbD_and, BitVec.getLsbD_and, getLsbD_writtenMask j inside,
    getLsbD_keptMask j inside]

/-- A written bit of the merged word. -/
theorem getLsbD_ctrlMerge_written (v w : Word) {j : Nat} (low : 4 ≤ j) (high : j < 30) :
    (ctrlMerge v w).getLsbD j = v.getLsbD j := by
  rw [getLsbD_ctrlMerge v w (by omega), decide_eq_true ⟨low, high⟩, decide_eq_false (by omega), Bool.and_true,
    Bool.and_false, Bool.or_false]

/-- A kept bit of the merged word. -/
theorem getLsbD_ctrlMerge_kept (v w : Word) {j : Nat} (inside : j < 32) (kept : j < 2 ∨ 30 ≤ j) :
    (ctrlMerge v w).getLsbD j = w.getLsbD j := by
  rw [getLsbD_ctrlMerge v w inside, decide_eq_true kept, decide_eq_false (by omega), Bool.and_true, Bool.and_false,
    Bool.false_or]

/-- A written field of the merged word. -/
theorem extractLsb'_ctrlMerge_written (v w : Word) {lo n : Nat} (low : 4 ≤ lo) (high : lo + n ≤ 30) :
    (ctrlMerge v w).extractLsb' lo n = v.extractLsb' lo n :=
  (extractLsb'_eq_iff _ _ lo n).mpr fun _ first last => getLsbD_ctrlMerge_written v w (by omega) (by omega)

/-- Without `autoRequest`, a `CTRL` write of `v` stores the descriptor that the merge of `v` with the word read stands for. -/
theorem withControlWord_ctrlMerge {v : Word} (auto : v.getLsbD 3 = false) (d : TransferDescriptor) :
    withControlWord (ctrlMerge v (controlWord d)) d = withWrittenControl v d := by
  have own : withControlWord (controlWord d) d = d := withControlWord_controlWord d d
  have autoBit : (ctrlMerge v (controlWord d)).getLsbD 3 = v.getLsbD 3 := by
    rw [auto, getLsbD_ctrlMerge _ _ (by decide), auto]
    simp
  have kind : kindTag ((ctrlMerge v (controlWord d)).extractLsb' 0 2) = d.structureKind := by
    refine (congrArg kindTag ?_).trans (congrArg TransferDescriptor.structureKind own)
    exact (extractLsb'_eq_iff _ _ 0 2).mpr fun _ _ last => getLsbD_ctrlMerge_kept _ _ (by omega) (by omega)
  have source : addrTag ((ctrlMerge v (controlWord d)).getLsbD 30) = d.sourceAddressingMode := by
    rw [getLsbD_ctrlMerge_kept _ _ (by decide) (by decide)]
    exact congrArg TransferDescriptor.sourceAddressingMode own
  have destination : addrTag ((ctrlMerge v (controlWord d)).getLsbD 31) = d.destinationAddressingMode := by
    rw [getLsbD_ctrlMerge_kept _ _ (by decide) (by decide)]
    exact congrArg TransferDescriptor.destinationAddressingMode own
  simp (disch := decide) only [withWrittenControl, withControlWord, kind, source, destination, autoBit,
    extractLsb'_ctrlMerge_written, getLsbD_ctrlMerge_written]

/-- The control word after a write without `autoRequest`: the merged word has bit 2 clear, so it reads back as it is. -/
theorem controlWord_withWrittenControl {v : Word} (auto : v.getLsbD 3 = false) (d : TransferDescriptor) :
    controlWord (withWrittenControl v d) = ctrlMerge v (controlWord d) := by
  rw [← withControlWord_ctrlMerge auto, controlWord_withControlWord_eq_self_iff, getLsbD_ctrlMerge _ _ (by decide)]
  simp

/-- A `CTRL` write without `autoRequest` is an update of the channel, and the register reads the written bits beside the
read-only ones. -/
theorem exec_wrCtrl_reads {s : State} {i : Nat} (present : i < s.numChannels) {v : Word} (clear : v.getLsbD 3 = false) :
    ∃ t, exec (.wrCtrl i v) s = .next t ∧ ChannelBecomes s t i (stored (.ctrl i) v i (s.chan i)) ∧
      t.readReg (.ctrl i) = ctrlMerge v (s.readReg (.ctrl i)) := by
  have becomes := State.ctrlStores_channelBecomes present v
  refine ⟨s.ctrlStores i v, by rw [exec_wrCtrl_eq present, if_neg (ne_true_of_eq_false clear)], becomes, ?_⟩
  have live : ((s.ctrlStores i v).chan i).desc = withWrittenControl v (s.chan i).desc := by
    rw [becomes.chan, withWrittenControl_eq_ctrlStored]
  exact (congrArg controlWord live).trans (controlWord_withWrittenControl clear _)

/-- Settles O34: the read is the control word of the live descriptor. -/
theorem ctrlReadShowsLiveFields : Obligations.CtrlReadShowsLiveFields := by
  intro s i v present clear
  obtain ⟨t, write, becomes, back⟩ := exec_wrCtrl_reads present clear
  exact ⟨s.readReg (.ctrl i), exec_readRow_of_channel present (r := .ctrl i) rfl nofun, rfl,
    t, write, becomes.reads present (r := .ctrl i) rfl nofun back⟩

end Sys2Proof.Machine
end

section
/-! PROOFS. The address banks (44_register_ops R260 to R266, 30_encoding R112): an access at a mapped offset is that of the
register, and what each register that stores the value holds after the write of a combination. -/

namespace Sys2Proof.Machine

/-! ### Accesses at a mapped offset -/

/-- The bank number of a register address (30_encoding R112). -/
def bankCode : Bank → BitVec 2
  | .plain => 0
  | .set => 1
  | .clear => 2
  | .toggle => 3

/-- A mapped offset selects its register in every bank. -/
theorem resolve_bankCode {s : State} {offset : BitVec 12} {r : RegName} (mapped : s.maps offset r) (bank : Bank) :
    resolve s.params (bankCode bank) offset = some (bank, r) := by
  obtain ⟨banks, distinct, mem⟩ := mapped
  rw [resolve, if_pos banks, find_regOffset distinct mem]
  cases bank <;> rfl

/-- A write at a mapped offset is the register's own write of the combination with what it reads. -/
theorem writeAddress_of_maps {s : State} {offset : BitVec 12} {r : RegName} (mapped : s.maps offset r) (bank : Bank)
    (v : Word) : writeAddress s.nest (bankCode bank) offset v s =
      exec (writeRow s.params r (combine bank (s.readReg r) v)) s := by
  rw [writeAddress, resolve_bankCode mapped, exec_writeRow]
  rfl

/-- A read at a mapped offset returns the register, whatever the bank (44_register_ops R265). -/
theorem exec_rdAny_of_maps {s : State} {offset : BitVec 12} {r : RegName} (mapped : s.maps offset r)
    (present : s.hasReg r = true) (bank : BitVec 2) :
    exec (.rdAny bank offset) s = .next (s.answer (.word (s.readReg r))) := by
  obtain ⟨banks, distinct, mem⟩ := mapped
  exact readAddress_of_mem distinct (by rwa [addressPlace, if_pos banks]) present

/-- Settles O38: neither read depends on the bank. -/
theorem readThroughAnyBank : Obligations.ReadThroughAnyBank := fun _ bank _ _ mapped present =>
  ⟨exec_rdAny_of_maps mapped present bank,
    (exec_rdAny_of_maps mapped present bank).trans (exec_rdAny_of_maps mapped present 0).symm⟩

/-- Settles O36: a write through the Set, Clear or Toggle bank and the plain write of the combination are one row of the
register. -/
theorem bankWriteIsPlainWriteOfCombination : Obligations.BankWriteIsPlainWriteOfCombination := by
  intro s offset v r mapped
  have plain (x : Word) : exec (.wrPlain offset x) s = exec (writeRow s.params r x) s := writeAddress_of_maps mapped .plain x
  have set : exec (.wrSet offset v) s = exec (writeRow s.params r (s.readReg r ||| v)) s := writeAddress_of_maps mapped .set v
  have clear : exec (.wrClr offset v) s = exec (writeRow s.params r (s.readReg r &&& ~~~v)) s :=
    writeAddress_of_maps mapped .clear v
  have toggle : exec (.wrTgl offset v) s = exec (writeRow s.params r (s.readReg r ^^^ v)) s :=
    writeAddress_of_maps mapped .toggle v
  exact ⟨fun present => exec_rdAny_of_maps mapped present 0, set, clear, toggle, set.trans (plain _).symm,
    clear.trans (plain _).symm, toggle.trans (plain _).symm⟩

/-! ### The `REQSEL` word -/

/-- The bits of a field `n` wide, placed at `lo`, as a mask. -/
theorem getLsbD_fieldMask (lo n : Nat) {j : Nat} (inside : j < 32) :
    ((((2 ^ n - 1) <<< lo : Nat) : Word)).getLsbD j = decide (lo ≤ j ∧ j < lo + n) := by
  rw [BitVec.natCast_eq_ofNat, BitVec.getLsbD_ofNat, Nat.testBit_shiftLeft, Nat.testBit_two_pow_sub_one,
    decide_eq_true inside, Bool.true_and, ← Bool.decide_and, decide_eq_decide]
  omega

/-- A field of a word put back at its place is the word under the field's mask. -/
theorem shiftLeft_extractLsb'_eq_and (v : Word) (lo n : Nat) :
    (v.extractLsb' lo n).setWidth 32 <<< lo = v &&& (((2 ^ n - 1) <<< lo : Nat) : Word) := by
  apply BitVec.eq_of_getLsbD_eq
  intro j inside
  rw [BitVec.getLsbD_and, getLsbD_fieldMask lo n inside, BitVec.getLsbD_shiftLeft, BitVec.getLsbD_setWidth,
    BitVec.getLsbD_extractLsb']
  by_cases low : lo ≤ j
  · have place : lo + (j - lo) = j := by omega
    have early : j - lo < 32 := by omega
    have field : j - lo < n ↔ j < lo + n := by omega
    simp [inside, low, place, early, field, Bool.and_comm]
  · simp [low]

/-- The word of the two fields of a written `REQSEL` word is the written word under the two masks (log 5). -/
theorem reqselWord_of_written (p : Params) (v : Word) :
    reqselWord p (v.extractLsb' p.reqselSourceLo 6) (v.extractLsb' p.reqselSignalLo 4) =
      v &&& ((63 <<< p.reqselSourceLo) ||| (15 <<< p.reqselSignalLo)) := by
  rw [reqselWord, shiftLeft_extractLsb'_eq_and, shiftLeft_extractLsb'_eq_and, BitVec.and_or_distrib_left]
  rfl

/-- A write of the `REQSEL` word stores its two fields, and the register reads them at their places. -/
theorem exec_writeRow_reqsel {s : State} {i : Nat} (present : i < s.numChannels) (v : Word) :
    ∃ t, exec (writeRow s.params (.reqsel i) v) s = .next t ∧
      ChannelBecomes s t i { s.chan i with
        sourceSelector := v.extractLsb' s.params.reqselSourceLo 6
        signalSelector := v.extractLsb' s.params.reqselSignalLo 4 } ∧
      t.readReg (.reqsel i) = v &&& ((63 <<< s.params.reqselSourceLo) ||| (15 <<< s.params.reqselSignalLo)) := by
  obtain ⟨-, t, write, becomes, -⟩ := reqselStoresTwoFields s i (v.extractLsb' s.params.reqselSourceLo 6)
    (v.extractLsb' s.params.reqselSignalLo 4) present
  have same : SameButChannels s t := becomes.1
  refine ⟨t, write, becomes, ?_⟩
  rw [State.readReg, becomes.chan, same.params, reqselWord_of_written]

/-! ### The flag registers -/

/-- The word of a flag that every channel takes from the bits of `v` (30_encoding R113). -/
theorem State.getLsbD_bankWord_of_stored {s t : State} {f : Channel → Bool} {v : Word} (long : t.numChannels = s.numChannels)
    (stored : ∀ i, i < s.numChannels → f (t.chan i) = v.getLsbD i) {i : Nat} (inside : i < 32) :
    (t.bankWord f).getLsbD i = (decide (i < s.numChannels) && v.getLsbD i) := by
  rw [t.getLsbD_bankWord_of_lt f inside, long]
  by_cases present : i < s.numChannels
  · rw [stored i present]
  · rw [decide_eq_false present, Bool.false_and, Bool.false_and]

/-- A plain write of `DONE`, `INTFLAG` or `INTEN` stores the flag of every channel, and the register reads the flags. -/
theorem exec_writeRow_flag {s : State} {r : RegName} (flag : r ∈ [.done, .intflag, .inten]) (v : Word) :
    ∃ t, exec (writeRow s.params r v) s = .next t ∧ SameButChannels s t ∧
      (∀ i, i < s.numChannels → t.chan i = stored r v i (s.chan i)) ∧
      ∀ i, i < 32 → (t.readReg r).getLsbD i = (decide (i < s.numChannels) && v.getLsbD i) := by
  simp only [List.mem_cons, List.not_mem_nil, or_false] at flag
  rcases flag with rfl | rfl | rfl
  · have store (i : Nat) (present : i < s.numChannels) := s.chan_mapChan (fun i c => { c with done := v.getLsbD i }) i present
    exact ⟨s.writeDone v, rfl, s.mapChan_sameButChannels _, store, fun i =>
      State.getLsbD_bankWord_of_stored (s.numChannels_mapChan _) fun k present => congrArg Channel.done (store k present)⟩
  · have store (i : Nat) (present : i < s.numChannels) :=
      s.chan_mapChan (fun i c => { c with doneInterrupt := v.getLsbD i }) i present
    exact ⟨s.writeIntflag v, rfl, s.mapChan_sameButChannels _, store, fun i =>
      State.getLsbD_bankWord_of_stored (s.numChannels_mapChan _) fun k present =>
        congrArg Channel.doneInterrupt (store k present)⟩
  · have store (i : Nat) (present : i < s.numChannels) :=
      s.chan_mapChan (fun i c => { c with doneInterruptEnable := v.getLsbD i }) i present
    exact ⟨s.writeInten v, rfl, s.mapChan_sameButChannels _, store, fun i =>
      State.getLsbD_bankWord_of_stored (s.numChannels_mapChan _) fun k present =>
        congrArg Channel.doneInterruptEnable (store k present)⟩

/-! ### The four banks -/

/-- Each of the four bank writes is the register's own write of the word it is paired with. -/
theorem exec_bankWrite {s : State} {offset : BitVec 12} {v : Word} {r : RegName} (mapped : s.maps offset r) {p : Instr × Word}
    (write : p ∈ [(Instr.wrPlain offset v, v), (.wrSet offset v, s.readReg r ||| v), (.wrClr offset v, s.readReg r &&& ~~~v),
      (.wrTgl offset v, s.readReg r ^^^ v)]) : exec p.1 s = exec (writeRow s.params r p.2) s := by
  simp only [List.mem_cons, List.not_mem_nil, or_false] at write
  rcases write with rfl | rfl | rfl | rfl
  · exact writeAddress_of_maps mapped .plain v
  · exact writeAddress_of_maps mapped .set v
  · exact writeAddress_of_maps mapped .clear v
  · exact writeAddress_of_maps mapped .toggle v

/-- Settles O37: each bank write is the register's own write of one word, which each kind of register stores in its way. -/
theorem bankWritesStoreTheCombination : Obligations.BankWritesStoreTheCombination := by
  intro s offset v r mapped p write
  rw [exec_bankWrite mapped write]
  refine ⟨fun i present word => exec_writeRow_word present word p.2, ?_, ?_, fun flag => exec_writeRow_flag flag p.2, ?_⟩
  · rintro i present rfl clear
    exact exec_wrCtrl_reads present clear
  · rintro i present rfl -
    exact exec_writeRow_reqsel present p.2
  · rintro rfl pull
    obtain ⟨t, run, same, chan⟩ := exec_wrReqdisable_arms pull
    refine ⟨t, run, same, chan, fun i => State.getLsbD_bankWord_of_stored same.2 fun k present => ?_⟩
    rw [chan k present]

end Sys2Proof.Machine
end

section
/-! PROOFS. Interrupt outputs: functions of the flags at every moment (60_exceptions R286, R287), and what `updateInterrupts()`
drives under each wiring (R288, R289). -/

namespace Sys2Proof.Machine

/-- Settles O16: a channel's output is the gate of its two flags, the wide one the disjunction over the channels. -/
theorem interruptOutputsFollowTheFlags : Obligations.InterruptOutputsFollowTheFlags := fun s =>
  ⟨fun _ => rfl, s.irqWide_eq_true⟩

/-- `updateInterrupts()` answers the wired outputs; no other field moves (60_exceptions R288; log 11). -/
theorem exec_updateInterrupts (s : State) : exec .updateInterrupts s = .next (s.answer s.wiredIrq) := rfl

/-- Settles O17: the word driven is the bank word of the channel outputs; each wiring selects what leaves the block. -/
theorem updateInterruptsDrivesWiredOutputs : Obligations.UpdateInterruptsDrivesWiredOutputs := by
  refine fun s => ⟨s.bankWord irqOf, fun _ inside => s.getLsbD_bankWord_of_lt irqOf inside, ?_⟩
  rw [exec_updateInterrupts]
  unfold State.wiredIrq
  cases s.params.irqWiring with
  | wideOnly => rfl
  | perChannelOnly => rfl
  | both => rfl

end Sys2Proof.Machine
end

section
/-! PROOFS. `RESET` (70_reset R310), construction (R311, 10_state R44), and a step as the decoder's case (log 1). -/

namespace Sys2Proof.Machine

/-! ### A reset channel -/

/-- The reset descriptor is what 32 zero bytes decode to (10_state R44). -/
theorem decodeDescriptor_zeros : decodeDescriptor (List.replicate 32 0) = TransferDescriptor.zero := by decide

theorem controlWord_zero : controlWord TransferDescriptor.zero = 0 := by decide

theorem linkWord_zero : linkWord TransferDescriptor.zero = 0 := by decide

theorem reqselWord_zero (p : Params) : reqselWord p 0 0 = 0 := by simp [reqselWord]

theorem channelGood_zero (i : Nat) : channelGood i (Channel.zero i) := ⟨rfl, rfl, rfl⟩

/-! ### `RESET` -/

theorem exec_reset (s : State) : exec .reset s = .next s.resetAll := execReset_eq s

theorem State.bankWord_resetAll (s : State) (f : Channel → Bool) (clear : ∀ i, f (Channel.zero i) = false) :
    s.resetAll.bankWord f = 0 :=
  State.bankWord_eq_zero fun i _ => by rw [State.chan_resetAll]; exact clear _

/-- Every register reads 0 after `RESET`; one of a channel that does not exist too, as the model reads such a channel. -/
theorem State.readReg_resetAll (s : State) (r : RegName) : s.resetAll.readReg r = 0 := by
  cases r with
  | disable | force | linkload => rfl
  | enable | status | done | intflag | inten | reqdisable => exact s.bankWord_resetAll _ fun _ => rfl
  | config i | loop i | srcaddr i | dstaddr i => rw [State.readReg, State.chan_resetAll]; rfl
  | reqsel i => rw [State.readReg, State.chan_resetAll]; exact reqselWord_zero _
  | ctrl i => rw [State.readReg, State.chan_resetAll]; exact controlWord_zero
  | link i => rw [State.readReg, State.chan_resetAll]; exact linkWord_zero

theorem State.irqCh_resetAll (s : State) (i : Nat) : s.resetAll.irqCh i = false := by
  rw [State.irqCh, State.chan_resetAll]; rfl

theorem State.irqWide_resetAll (s : State) : s.resetAll.irqWide = false := by
  rw [Bool.eq_false_iff, Ne, State.irqWide_eq_true]
  rintro ⟨i, -, high⟩
  rw [s.irqCh_resetAll i] at high
  cases high

/-- Settles O15: every channel is the zero channel of its index, and registers and outputs are read off that. -/
theorem resetClearsEverything : Obligations.ResetClearsEverything := fun s =>
  ⟨s.resetAll, exec_reset s, rfl, s.numChannels_resetAll,
    fun i _ => ⟨s.chan_resetAll i, by rw [s.chan_resetAll, decodeDescriptor_zeros]; rfl⟩,
    fun r _ => s.readReg_resetAll r, s.irqCh_resetAll, s.irqWide_resetAll⟩

/-! ### Construction -/

@[simp] theorem State.numChannels_initial (p : Params) (n : Nat) : (State.initial p n).numChannels = n := by
  simp [State.initial, State.numChannels]

theorem State.chan_initial {p : Params} {n i : Nat} (present : i < n) : (State.initial p n).chan i = Channel.zero i := by
  simp [State.initial, State.chan, present]

/-- Construction leaves nothing for `RESET` to clear (70_reset R311). -/
theorem State.resetAll_initial (p : Params) (n : Nat) : (State.initial p n).resetAll = State.initial p n := by
  have same : ((List.range n).map Channel.zero).map resetChannel = (List.range n).map Channel.zero := List.map_map
  simp only [State.resetAll, State.initial, same]

theorem State.initial_good {p : Params} {n : Nat} (legal : p.wf n) : (State.initial p n).Good where
  params := by rw [State.numChannels_initial]; exact legal
  mem := ⟨.nil, nofun⟩
  asserted := .nil
  channels i present := by
    rw [State.numChannels_initial] at present
    rw [State.chan_initial present]
    exact channelGood_zero i

/-- The parameters of the reset state are legal for its number of channels (log 4). -/
theorem defaultParams_wf : Config.defaultParams.wf Config.defaultChannels := by decide

/-- Settles O9: construction is a fixed point of `RESET` and good; the reset state is one such state. -/
theorem initialStateIsGoodAndReset : Obligations.InitialStateIsGoodAndReset :=
  ⟨State.initial_good defaultParams_wf, fun p n =>
    ⟨State.numChannels_initial p n, by rw [exec_reset, State.resetAll_initial], State.initial_good⟩⟩

/-! ### A step -/

theorem step_of_idle {s : State} (idle : s.pending = []) : step s = .next s := by
  simp [step, idle]

/-- The empty stream holds no packet, so an operation decoded is one pending. -/
theorem pending_ne_nil_of_decode {s : State} {i : Instr} {rest : List Byte} (h : decode s.pending = .ok (i, rest)) :
    s.pending ≠ [] := by
  intro idle
  rw [idle] at h
  cases h

theorem step_of_decode {s : State} {i : Instr} {rest : List Byte} (h : decode s.pending = .ok (i, rest)) :
    step s = exec i { s with pending := rest } := by
  simp [step, pending_ne_nil_of_decode h, h]

theorem step_of_decode_error {s : State} {e : DecodeError} (busy : s.pending ≠ []) (h : decode s.pending = .error e) :
    step s = .refused (.badOperation e) := by
  simp [step, busy, h]

/-- Settles O8: one lemma per case of the stream. -/
theorem stepRunsTheDecodedOperation : Obligations.StepRunsTheDecodedOperation :=
  ⟨fun _ _ _ => step_of_decode, fun _ => step_of_idle, fun _ _ => step_of_decode_error⟩

end Sys2Proof.Machine
end
